-- ==== Sys2Proof/Word.lean ====
section
/-! DEFINITION. The value types of SWPD: bytes, line levels, and the five bytes of a frame. -/

namespace Sys2Proof

/-- An unsigned 8-bit value (R15: the spec has no signed value). -/
abbrev Byte := BitVec 8

/-- PulseLevel, "binary value {HIGH, LOW}" (00_scope.md glossary); its codes are in Decode.lean (R81). -/
inductive Level where
  | low
  | high
deriving DecidableEq, Repr, Inhabited

/-- RawFrame, exactly five bytes in the order of R23 and R86: `b0` humidity-integer, `b1` humidity-fraction,
`b2` temperature-integer, `b3` temperature-fraction, `b4` checksum. -/
structure Frame where
  b0 : Byte
  b1 : Byte
  b2 : Byte
  b3 : Byte
  b4 : Byte
deriving DecidableEq, Repr, Inhabited

/-- The frame with all 40 bits clear (R38, R121). -/
def Frame.zero : Frame := ⟨0#8, 0#8, 0#8, 0#8, 0#8⟩

end Sys2Proof
end

