-- ==== Sys2Proof/Config.lean ====
section
/-! DEFINITION. The implementation parameters of 00_scope.md R9 (plain data, arbitrary in every statement), the two
configurations the spec names, and the free values: constants without a body. -/

namespace Sys2Proof

/-- Where the displayed value comes from: one display variant shows `rd_temp`, the other "an independent counter"
(47_companion_agents.md R195). -/
inductive DisplaySource where
  | reading
  | counter
deriving DecidableEq, Repr, Inhabited

/-- The parameters of R9, "which the model takes as arguments"; `cntW` is R20's `CNT_W`, and `display` is the display
variant of R195, a parameter of the companion agent. -/
structure Params where
  /-- `TICK_W`: width in bits of `tick` and `t_start`. -/
  tickW : Nat
  /-- One tick lasts `TICK_NUM / TICK_DEN` microseconds. -/
  tickNum : Nat
  tickDen : Nat
  /-- `THRESH_US`: bit threshold in microseconds. -/
  threshUs : Nat
  /-- `HOLD_CYCLES`: enabled cycles the line is driven LOW. -/
  holdCycles : Nat
  /-- `POLL_BUDGET`: iteration budget of every wait. -/
  pollBudget : Nat
  /-- `HAS_PREEMPTOR`: when false, `pre_req` is tied to 0. -/
  hasPreemptor : Bool
  /-- `CNT_W`: width in bits of `poll_cnt` and `hold_cnt` (R20, D22). -/
  cntW : Nat
  display : DisplaySource
deriving DecidableEq, Repr

/-- The reference configuration REF of R9 (D28). `CNT_W` = 15 is the least width R20 allows (2^15 > 18000).
DESIGN CHOICE for `cntW` and `display` (log entries 2 and 3). -/
def Params.ref : Params where
  tickW := 32
  tickNum := 1
  tickDen := 1
  threshUs := 45
  holdCycles := 18000
  pollBudget := 1000
  hasPreemptor := true
  cntW := 15
  display := .reading

/-- The toy configuration TINY of R9 (D28), "small enough for cycle-by-cycle traces". -/
def Params.tiny : Params where
  tickW := 4
  tickNum := 1
  tickDen := 1
  threshUs := 3
  holdCycles := 2
  pollBudget := 6
  hasPreemptor := true
  cntW := 3
  display := .reading

/-! Free values (log entries 1 and 13): nothing in Lean can evaluate them, so what is proved holds for every value. -/

/-- The value of `rst` at the edge numbered by the argument, once the stimulus list of State is used up (R40). -/
opaque Config.freeRst : Nat → Bool

/-- The value of `start` at that edge (R32, R40). -/
opaque Config.freeStart : Nat → Bool

/-- The value of `line_in` at that edge (R40 (a); 93 U10). -/
opaque Config.freeLine : Nat → Level

/-- The value of `tick` at that edge, before it is cut to `TICK_W` bits (R40 (b); 93 U2). -/
opaque Config.freeTick : Nat → Nat

/-- The value of `pre_req` at that edge (R40 (c); 93 U7, U13). -/
opaque Config.freePreReq : Nat → Bool

/-- Whether a granted display firing acts in that cycle (R190; 93 U13). -/
opaque Config.freeFire : Nat → Bool

/-- The "independent counter" that one display variant shows (R195; 93 U9), by edge number. -/
opaque Config.displayCounter : Nat → Nat

/-- The digit to segment-mask table, "a parameter of the display" (R194; 93 U8), read at the digits 0 to 9. -/
opaque Config.segmentMask : Nat → BitVec 7

/-- What a tens digit above 9 puts on the segment lines: "any value" (93 U4), by edge number. -/
opaque Config.freeSegments : Nat → BitVec 7

end Sys2Proof
end

