-- ==== Sys2Proof/Syntax.lean ====
section
/-! DEFINITION. The codes SWPD encodes and decodes (30_encoding.md), and the one inductive `Instr`: a constructor for
each row of spec/opcode_table.json. -/

namespace Sys2Proof

/-- The formats the opcode table has rows of (R80, R104). LVL and DIGPOS have codes but no rows (R81, R96). -/
inductive Format where
  | cmd
  | phase
  | outcome
  | frame
  | cell
deriving DecidableEq, Repr

/-- The eight values of register `phase`, the sequencer's position (R21, R83). -/
inductive Phase where
  | idle
  | reqLow
  | hs1
  | hs2
  | hs3
  | bitLo
  | bitHi
  | check
deriving DecidableEq, Repr

/-- The four values of register `outcome` (R30, R84). -/
inductive OutcomeTag where
  | none
  | success
  | timeout
  | checksum
deriving DecidableEq, Repr

/-- DigitPosition of the display agent (R96, R191). -/
inductive DigitPos where
  | units
  | tens
deriving DecidableEq, Repr

/-- One constructor per row of the opcode table, in the table's order. Only FRAME has fields (R86); every other row is
a fixed code (R94, R95: no operand is taken from an encoding). -/
inductive Instr where
  /-- CMD 0 (R120). -/
  | nop
  /-- CMD 1 (R121). -/
  | start
  /-- PHASE 000 (R120). -/
  | idle
  /-- PHASE 001 (R123). -/
  | reqLow
  /-- PHASE 010 (R125). -/
  | hs1
  /-- PHASE 011 (R126). -/
  | hs2
  /-- PHASE 100 (R127). -/
  | hs3
  /-- PHASE 101 (R141). -/
  | bitLo
  /-- PHASE 110 (R142). -/
  | bitHi
  /-- PHASE 111 (R160). -/
  | check
  /-- OUTCOME 00 (R30). -/
  | none
  /-- OUTCOME 01 (R162). -/
  | success
  /-- OUTCOME 10 (R131). -/
  | timeout
  /-- OUTCOME 11 (R163). -/
  | checksum
  /-- FRAME, 40 bits: humidity-integer, humidity-fraction, temperature-integer, temperature-fraction, checksum (R86). -/
  | frame (h f t g c : Byte)
  /-- CELL symbol for bit 0 (R91). -/
  | zero
  /-- CELL symbol for bit 1 (R91). -/
  | one
deriving DecidableEq, Repr

end Sys2Proof
end

