-- ==== Sys2Proof/WellFormed.lean ====
section
/-! DEFINITION. What is well-formed: every term of `Instr`; a word that fits its format; the parameters' legal values. -/

namespace Sys2Proof

/-- Width in bits of each format (R80); a CELL is one symbol, one bit of frame (R91). -/
def Format.width : Format → Nat
  | .cmd => 1
  | .phase => 3
  | .outcome => 2
  | .frame => 40
  | .cell => 1

/-- A word of a format, as a number with bit 0 its least significant bit (R15). -/
structure FormatWord where
  fmt : Format
  bits : Nat
deriving DecidableEq, Repr

/-- A word is well-formed when it has no bit above its format's width. -/
def FormatWord.wellFormed (w : FormatWord) : Bool := decide (w.bits < 2 ^ w.fmt.width)

/-- No code is reserved or illegal (R97) and a frame is not rejected for the values of its fields (R99), so every term
is well-formed: what could be ill-formed is the word (`FormatWord.wellFormed`). -/
def Instr.wellFormed : Instr → Bool
  | .nop | .start => true
  | .idle | .reqLow | .hs1 | .hs2 | .hs3 | .bitLo | .bitHi | .check => true
  | .none | .success | .timeout | .checksum => true
  | .frame _ _ _ _ _ => true
  | .zero | .one => true

/-- The legal values of the parameters: R9's column "legal values", and R20's bound on `CNT_W`. -/
def Params.legal (p : Params) : Bool :=
  decide (1 ≤ p.tickW) && decide (1 ≤ p.tickNum) && decide (1 ≤ p.tickDen) &&
  decide (1 ≤ p.holdCycles) && decide (1 ≤ p.pollBudget) &&
  decide (max p.holdCycles p.pollBudget < 2 ^ p.cntW)

end Sys2Proof
end

