-- ==== Sys2Proof/Decode.lean ====
section
/-! DEFINITION. The decoders of the five formats (30_encoding.md R82, R83, R84, R86, R91), total on every number, and
after them the encoder written from the same tables. -/

namespace Sys2Proof

/-! ### Codes that have no row of the opcode table -/

/-- LVL: HIGH = 1, LOW = 0 (R81). -/
def Level.code : Level → BitVec 1
  | .low => 0b0#1
  | .high => 0b1#1

/-- The level of a one-bit sample (R81). -/
def Level.ofCode (b : BitVec 1) : Level := if b = 0b1#1 then .high else .low

/-- DIGPOS: UNITS = 0, TENS = 1 (R96). -/
def DigitPos.code : DigitPos → BitVec 1
  | .units => 0b0#1
  | .tens => 0b1#1

/-- `line_oe`: 1 = output mode, 0 = input mode (R85). -/
def lineOeCode (oe : Bool) : BitVec 1 := if oe then 0b1#1 else 0b0#1

/-! ### Codes of the registers -/

/-- The code in register `phase` (R83). -/
def Phase.code : Phase → BitVec 3
  | .idle => 0b000#3
  | .reqLow => 0b001#3
  | .hs1 => 0b010#3
  | .hs2 => 0b011#3
  | .hs3 => 0b100#3
  | .bitLo => 0b101#3
  | .bitHi => 0b110#3
  | .check => 0b111#3

/-- The code in register `outcome` (R84). -/
def OutcomeTag.code : OutcomeTag → BitVec 2
  | .none => 0b00#2
  | .success => 0b01#2
  | .timeout => 0b10#2
  | .checksum => 0b11#2

/-- The FRAME word of the five frame bytes: `frame[0]` in bits 39:32 down to `frame[4]` in bits 7:0 (R86). -/
def Frame.toWord (f : Frame) : BitVec 40 := f.b0 ++ f.b1 ++ f.b2 ++ f.b3 ++ f.b4

/-- The five frame bytes of a FRAME word (R86). -/
def Frame.ofWord (w : BitVec 40) : Frame :=
  ⟨w.extractLsb' 32 8, w.extractLsb' 24 8, w.extractLsb' 16 8, w.extractLsb' 8 8, w.extractLsb' 0 8⟩

/-! ### Decoders -/

/-- CMD, the value of `start` (R82). -/
def decodeCmd (b : BitVec 1) : Instr := if b = 0b0#1 then .nop else .start

/-- PHASE, the value of `phase`; all eight codes are used (R83). -/
def decodePhase (c : BitVec 3) : Instr :=
  if c = 0b000#3 then .idle
  else if c = 0b001#3 then .reqLow
  else if c = 0b010#3 then .hs1
  else if c = 0b011#3 then .hs2
  else if c = 0b100#3 then .hs3
  else if c = 0b101#3 then .bitLo
  else if c = 0b110#3 then .bitHi
  else .check

/-- OUTCOME, the value of `outcome`; all four codes are used (R84). -/
def decodeOutcome (c : BitVec 2) : Instr :=
  if c = 0b00#2 then .none
  else if c = 0b01#2 then .success
  else if c = 0b10#2 then .timeout
  else .checksum

/-- FRAME, pattern `HHHHHHHH FFFFFFFF TTTTTTTT GGGGGGGG CCCCCCCC`, first wire bit on the left (R86). -/
def decodeFrame (w : BitVec 40) : Instr :=
  let f := Frame.ofWord w
  .frame f.b0 f.b1 f.b2 f.b3 f.b4

/-- CELL: a symbol stands for one bit of the frame (R91). -/
def decodeCell (b : BitVec 1) : Instr := if b = 0b0#1 then .zero else .one

/-- Why a number is no word of a format. No code within the width is reserved (R97), so one name suffices. -/
inductive Reject where
  /-- The number has a bit above the width of the format (R80: there is one length per format). -/
  | tooWide (fmt : Format)
deriving DecidableEq, Repr

/-- The decoder, total on every format and every number. -/
def decode (fmt : Format) (w : Nat) : Except Reject Instr :=
  if w < 2 ^ fmt.width then
    match fmt with
    | .cmd => .ok (decodeCmd (BitVec.ofNat 1 w))
    | .phase => .ok (decodePhase (BitVec.ofNat 3 w))
    | .outcome => .ok (decodeOutcome (BitVec.ofNat 2 w))
    | .frame => .ok (decodeFrame (BitVec.ofNat 40 w))
    | .cell => .ok (decodeCell (BitVec.ofNat 1 w))
  else .error (.tooWide fmt)

/-! ### Encoder -/

/-- The word of an instruction, from the tables of R82, R83, R84, R86 and R91. -/
def encode : Instr → FormatWord
  | .nop => ⟨.cmd, 0b0⟩
  | .start => ⟨.cmd, 0b1⟩
  | .idle => ⟨.phase, 0b000⟩
  | .reqLow => ⟨.phase, 0b001⟩
  | .hs1 => ⟨.phase, 0b010⟩
  | .hs2 => ⟨.phase, 0b011⟩
  | .hs3 => ⟨.phase, 0b100⟩
  | .bitLo => ⟨.phase, 0b101⟩
  | .bitHi => ⟨.phase, 0b110⟩
  | .check => ⟨.phase, 0b111⟩
  | .none => ⟨.outcome, 0b00⟩
  | .success => ⟨.outcome, 0b01⟩
  | .timeout => ⟨.outcome, 0b10⟩
  | .checksum => ⟨.outcome, 0b11⟩
  | .frame h f t g c => ⟨.frame, (Frame.toWord ⟨h, f, t, g, c⟩).toNat⟩
  | .zero => ⟨.cell, 0b0⟩
  | .one => ⟨.cell, 0b1⟩

/-! ### The frame on the wire -/

/-- Wire bit number `n` of a frame is bit `7 - (n mod 8)` of byte `n div 8` (R61, R199); there is none from 40 on. -/
def Frame.wireBit (f : Frame) (n : Nat) : Bool :=
  match n / 8 with
  | 0 => f.b0.getLsbD (7 - n % 8)
  | 1 => f.b1.getLsbD (7 - n % 8)
  | 2 => f.b2.getLsbD (7 - n % 8)
  | 3 => f.b3.getLsbD (7 - n % 8)
  | 4 => f.b4.getLsbD (7 - n % 8)
  | _ => false

/-- The CELL symbol of one bit (R91). -/
def cellOf (b : Bool) : Instr := if b then .one else .zero

/-- A frame serially on the wire: 40 cells back to back, cell `n` carrying wire bit `n` (R92). -/
def Frame.cells (f : Frame) : List Instr := (List.range 40).map fun n => cellOf (f.wireBit n)

/-! ### The opcode table's words -/

/-- The phase that has a code (R83). -/
def phaseOf (w : Nat) : Option Phase :=
  [Phase.idle, .reqLow, .hs1, .hs2, .hs3, .bitLo, .bitHi, .check].find? fun p => p.code.toNat == w

/-- The format a word of the opcode table is read in, by the number of bits the host gives it. The five formats are the
codes of five different places and overlap as bare numbers (R80), and only the width is left to tell them apart: 1, 2, 3
and 40 bits are read as CMD, OUTCOME, PHASE and FRAME, and a whole byte as PHASE, the format with the most rows
(DESIGN CHOICE, log entry 6). -/
def tableFormat (nbits : Nat) : Option Format :=
  if nbits = 40 then some .frame
  else if nbits = 8 ∨ nbits = 3 then some .phase
  else if nbits = 2 then some .outcome
  else if nbits = 1 then some .cmd
  else .none

/-- The instruction the decoder reads from a word of the opcode table. -/
def decodeTableWord (nbits w : Nat) : Option Instr :=
  match tableFormat nbits with
  | some fmt =>
    match decode fmt w with
    | .ok i => some i
    | .error _ => Option.none
  | Option.none => Option.none

end Sys2Proof
end

