-- ==== Sys2Proof/Machine/State.lean ====
section
/-! DEFINITION. The state of the machine: the twelve registers of 10_state.md R20, the display agent's one bit (R42), and
three fields of the model's own: the parameters and the environment's choices. -/

namespace Sys2Proof.Machine

/-- The values of the input ports at one rising edge of `clk` (R32), and one choice of the display agent.
`tick` is any number; what the block samples is its low `TICK_W` bits (R16, `State.tickSample`). -/
structure Inputs where
  rst : Bool
  /-- CMD: 1 = START, 0 = no command (R82). -/
  start : Bool
  /-- `line_in`, already synchronised to `clk`. -/
  line : Level
  tick : Nat
  preReq : Bool
  /-- Not a port of SWPD: whether, if this cycle is granted to the display agent, its firing acts in it
  (R190, 93 U13; log entry 12). -/
  fire : Bool
deriving DecidableEq, Repr, Inhabited

/-- R20's twelve registers under their own names, then `digit_pos` (R42, R191), then the model's own fields
(log entries 1 and 2). -/
structure State where
  phase : Phase
  bitIdx : BitVec 6
  frame : Frame
  /-- `CNT_W` bits (R20); a number, since the width is a parameter (log entry 3). -/
  pollCnt : Nat
  /-- `CNT_W` bits (R20). -/
  holdCnt : Nat
  /-- `TICK_W` bits (R20); a number, since the width is a parameter (log entry 4). -/
  tStart : Nat
  /-- 1 = output, 0 = input (R27, R85). -/
  lineOe : Bool
  lineOut : Level
  guard : Bool
  outcome : OutcomeTag
  rdHum : Byte
  rdTemp : Byte
  /-- The display agent's bit, outside SWPD (R42, R191). -/
  digitPos : DigitPos
  /-- The parameters (R9); no step writes them (R41). -/
  cfg : Params
  /-- The inputs of the edges to come, the next one first (R40: the environment chooses them). -/
  stim : List Inputs
  /-- How many edges have passed. -/
  cycle : Nat
deriving DecidableEq, Repr

/-- Why the machine can stop with a fault: for no reason. "No point is treated as fault or stuck: the block has no behaviour
that stops it" (93_implementation_defined.md); the two error outcomes are ordinary values of `outcome` (R200, R210). -/
inductive Fault where
deriving DecidableEq, Repr

/-- Why a step can be refused. -/
inductive Refusal where
  /-- An instruction of the opcode table that has no meaning in the model; raised by an arm of `exec`. Safe. No arm of
  this model raises it: all 17 rows have their meaning. -/
  | notModelled (mnemonic : String)
deriving DecidableEq, Repr

/-- The machine right after reset: R38, R230. The registers' values are the spec's; `digitPos` (log entry 11), `cfg`
(log entry 2), `stim` and `cycle` (log entry 1) are DESIGN CHOICEs. -/
def State.reset : State where
  phase := .idle
  bitIdx := 0#6
  frame := Frame.zero
  pollCnt := 0
  holdCnt := 0
  tStart := 0
  lineOe := true
  lineOut := .high
  guard := false
  outcome := .none
  rdHum := 0#8
  rdTemp := 0#8
  digitPos := .units
  cfg := Params.ref
  stim := []
  cycle := 0

end Sys2Proof.Machine
end

