-- ==== Sys2Proof/Machine/Operands.lean ====
section
/-! DEFINITION. What the operations read: the input samples (R16), the fixed level of each wait (R94), the operands of the
classification (R95, R143 to R145), the addressing of the frame buffer (R61), and the checksum's sum (R161). -/

namespace Sys2Proof.Machine

/-! ### Input samples -/

/-- The input values at the next edge: the head of the stimulus list, or free values once the list is used up
(R40; log entry 1). -/
def State.inputs (s : State) : Inputs :=
  match s.stim with
  | i :: _ => i
  | [] =>
    { rst := Config.freeRst s.cycle, start := Config.freeStart s.cycle, line := Config.freeLine s.cycle,
      tick := Config.freeTick s.cycle, preReq := Config.freePreReq s.cycle, fire := Config.freeFire s.cycle }

/-- `LineSample()`: the value of `line_in` at this edge (R16). -/
def State.lineSample (s : State) : Level := s.inputs.line

/-- `TickSample()`: the value of `tick` at this edge, `TICK_W` bits (R16, R214). -/
def State.tickSample (s : State) : BitVec s.cfg.tickW := BitVec.ofNat s.cfg.tickW s.inputs.tick

/-- The CMD word at this edge (R82). -/
def State.cmdCode (s : State) : BitVec 1 := if s.inputs.start then 0b1#1 else 0b0#1

/-- `pre_req`, tied to 0 when there is no preemptor (R9, R179). -/
def State.preReq (s : State) : Bool := s.cfg.hasPreemptor && s.inputs.preReq

/-! ### The level a wait leaves -/

/-- The level `L` of each wait phase (R94). The other three phases make no wait and this value is not read for them. -/
def waitLevel : Phase → Level
  | .hs1 | .hs3 | .bitHi => .high
  | .hs2 | .bitLo => .low
  | .idle | .reqLow | .check => .high

/-! ### Width and classification of a pulse -/

/-- `dt = (TickSample() - t_start) mod 2^TICK_W`, an unsigned `TICK_W`-bit value (R143). -/
def State.elapsedTicks (s : State) : BitVec s.cfg.tickW := s.tickSample - BitVec.ofNat s.cfg.tickW s.tStart

/-- The exact comparison of R145: `dt × TICK_NUM > THRESH_US × TICK_DEN`, in integers of unbounded width; equal is 0. -/
def isOne (p : Params) (dt : Nat) : Bool := decide (p.threshUs * p.tickDen < dt * p.tickNum)

/-- The bit that the pulse just ended is classified into (R143 to R145). -/
def State.measuredBit (s : State) : Bool := isOne s.cfg s.elapsedTicks.toNat

/-- The CELL word that the pulse just ended is classified into (R91, R145). -/
def State.cellCode (s : State) : BitVec 1 := if s.measuredBit then 0b1#1 else 0b0#1

/-! ### The frame buffer -/

/-- A byte with one bit written (R16: `frame[i][k] <- b`). -/
def setBit (x : Byte) (k : Nat) (b : Bool) : Byte :=
  let m := (1#8) <<< k
  if b then x ||| m else x &&& ~~~m

/-- `frame[n div 8][7 - (n mod 8)] <- b` (R146, R61). From `n = 40` on no such byte exists and nothing is written: a state
that no run reaches (R97, 93 U3; log entry 5). -/
def storeBit (f : Frame) (n : Nat) (b : Bool) : Frame :=
  match n / 8 with
  | 0 => { f with b0 := setBit f.b0 (7 - n % 8) b }
  | 1 => { f with b1 := setBit f.b1 (7 - n % 8) b }
  | 2 => { f with b2 := setBit f.b2 (7 - n % 8) b }
  | 3 => { f with b3 := setBit f.b3 (7 - n % 8) b }
  | 4 => { f with b4 := setBit f.b4 (7 - n % 8) b }
  | _ => f

/-- The sum of the first four bytes modulo 256 (R161). -/
def dataSum (f : Frame) : Byte := f.b0 + f.b1 + f.b2 + f.b3

/-- A frame is valid when `(H + F + T + G) mod 256 = C` (R87, R161). -/
def frameValid (f : Frame) : Bool := decide (dataSum f = f.b4)

end Sys2Proof.Machine
end

