-- ==== Sys2Proof/Machine/Flags.lean ====
section
/-! DEFINITION. SWPD has no arithmetic condition codes (R43). Its flag-like state is `guard`, `outcome`, `line_oe`, `line_out`
and the derived `busy` and `pre_gnt`: what each is and how each is written. -/

namespace Sys2Proof.Machine

/-- `busy = 1` when `phase` is not `IDLE` (R35). -/
def State.busy (s : State) : Bool := decide (s.phase ≠ .idle)

/-- `pre_gnt = pre_req and not guard` (R36, R174). -/
def State.preGnt (s : State) : Bool := s.preReq && !s.guard

/-- A cycle is frozen when `rst = 0`, `pre_req = 1` and `guard = 0`; otherwise it is enabled (R173). -/
def State.frozen (s : State) : Bool := !s.inputs.rst && s.preGnt

/-- Acquire of the guard (R170). -/
def acquireGuard (s : State) : State := { s with guard := true }

/-- Release of the guard (R171, R172). -/
def releaseGuard (s : State) : State := { s with guard := false }

/-- `outcome` takes a tag (R43). -/
def setOutcome (o : OutcomeTag) (s : State) : State := { s with outcome := o }

/-- The line to its idle configuration, output-HIGH (R130). -/
def lineToIdle (s : State) : State := { s with lineOe := true, lineOut := .high }

/-- The output ports in a cycle (R33, R183). -/
structure Outputs where
  lineOe : Bool
  lineOut : Level
  guard : Bool
  busy : Bool
  outcome : OutcomeTag
  rdHum : Byte
  rdTemp : Byte
  preGnt : Bool
deriving DecidableEq, Repr

/-- The output function of R183. -/
def State.outputs (s : State) : Outputs where
  lineOe := s.lineOe
  lineOut := s.lineOut
  guard := s.guard
  busy := s.busy
  outcome := s.outcome
  rdHum := s.rdHum
  rdTemp := s.rdTemp
  preGnt := s.preGnt

end Sys2Proof.Machine
end

