-- ==== Sys2Proof/Machine/Display.lean ====
section
/-! DEFINITION. The preempting activity, DisplayMultiplexer, at its interface (47_companion_agents.md R190 to R197). It is
outside SWPD; its one bit `digit_pos` stands in State (R42) and moves only in cycles that SWPD grants. -/

namespace Sys2Proof.Machine

/-- A firing acts in this cycle: the cycle is granted (R190: "it runs in the cycles where `pre_gnt = 1`") and the
environment lets the firing act in it (93 U13; log entry 12). -/
def State.displayFires (s : State) : Bool := s.preGnt && s.inputs.fire

/-- "toggle DigitPosition" (R191). -/
def toggleDigit : DigitPos → DigitPos
  | .units => .tens
  | .tens => .units

/-- `digit_pos` after this edge (R191). -/
def State.digitAfter (s : State) : DigitPos := if s.displayFires then toggleDigit s.digitPos else s.digitPos

/-- The displayed value `v`: `rd_temp`, or the independent counter of the other variant (R195, R197; 93 U9). -/
def State.displayedValue (s : State) : Nat :=
  match s.cfg.display with
  | .reading => s.rdTemp.toNat
  | .counter => Config.displayCounter s.cycle

/-- The active decimal digit: `v div 10` for TENS, `v mod 10` for UNITS (R192); above 9 it is outside the segment table (R196). -/
def activeDigit : DigitPos → Nat → Nat
  | .tens, v => v / 10
  | .units, v => v % 10

/-- The segment lines for a digit: the fixed table for 0 to 9 (R194), any value above (R196; 93 U4; log entry 13). -/
def State.segmentsFor (s : State) (d : Nat) : BitVec 7 :=
  if d ≤ 9 then Config.segmentMask d else Config.freeSegments s.cycle

/-- What one firing puts on the display: the digit, its segment mask, and which of the two digit lines is enabled
(R192, R193, R194). Enabled is logical: the electrical polarity is not in the spec (93 U6). -/
structure Firing where
  pos : DigitPos
  digit : Nat
  segments : BitVec 7
  tensEnabled : Bool
  unitsEnabled : Bool
deriving DecidableEq, Repr

/-- The firing of this cycle, if one acts: toggle, derive the digit, enable exactly one digit line, drive the segments
(R191 to R194). -/
def State.firing (s : State) : Option Firing :=
  if s.displayFires then
    let p := toggleDigit s.digitPos
    let d := activeDigit p s.displayedValue
    some { pos := p, digit := d, segments := s.segmentsFor d,
           tensEnabled := decide (p = .tens), unitsEnabled := decide (p = .units) }
  else none

end Sys2Proof.Machine
end

