-- ==== Sys2Proof/Machine/Ops.lean ====
section
/-! DEFINITION. The operations that the meanings share: the poll, the endings of a transaction (what takes the place of an
exception, R210), its beginning, the capture of a bit, the reset, and what an edge does beside the engine. -/

namespace Sys2Proof.Machine

/-! ### The endings of a transaction -/

/-- What every ending does at its one edge: the outcome takes its tag, the line returns to output-HIGH, `phase` becomes
`IDLE` (R130, R210). There is no return operation (R212): the block is then in `IDLE` and takes the next START. -/
def endTransaction (o : OutcomeTag) (s : State) : State :=
  { lineToIdle (setOutcome o s) with phase := .idle }

/-- `raise Timeout()` (R131): the common ending of every timed-out wait, with the guard released (R172). -/
def raiseTimeout (s : State) : State := endTransaction .timeout (releaseGuard s)

/-- `raise Checksum()` (R163), with what R160 does at the same edge; the store is not written. -/
def raiseChecksum (s : State) : State := endTransaction .checksum s

/-- Success (R162), with what R160 does at the same edge: both store bytes change at this one edge (R66). -/
def raiseSuccess (s : State) : State :=
  { endTransaction .success s with rdHum := s.frame.b0, rdTemp := s.frame.b2 }

/-- `CHECK`'s judgement of the frame in `frame[0..4]` (R160, R161). -/
def judgeFrame (s : State) : State := if frameValid s.frame then raiseSuccess s else raiseChecksum s

/-! ### The poll primitive -/

/-- A counter of `CNT_W` bits after one more count (R17, R20; log entry 3). -/
def countUp (p : Params) (n : Nat) : Nat := (n + 1) % 2 ^ p.cntW

/-- What one poll of a wait finds (R110). -/
inductive PollResult where
  /-- The sample differs from the level being left (R111). -/
  | ok
  /-- The sample equals it and the budget is spent (R112). -/
  | timeout
  /-- The sample equals it and the budget is not spent (R113). -/
  | again
deriving DecidableEq, Repr

/-- One poll: the change test comes before the budget test (R110, R208). -/
def poll (l : Level) (s : State) : PollResult :=
  if s.lineSample ≠ l then .ok
  else if s.pollCnt + 1 = s.cfg.pollBudget then .timeout
  else .again

/-- `AwaitLeave(L)` in one enabled cycle (R110 to R113); `onOk` is the phase's own exit, at the same edge as
`poll_cnt <- 0`. -/
def awaitLeave (l : Level) (onOk : State → State) (s : State) : State :=
  match poll l s with
  | .ok => onOk { s with pollCnt := 0 }
  | .timeout => raiseTimeout s
  | .again => { s with pollCnt := countUp s.cfg s.pollCnt }

/-- The sequencer's next phase (R16: `phase <- P`). -/
def goto (p : Phase) (s : State) : State := { s with phase := p }

/-! ### Transaction control -/

/-- START taken in `IDLE` (R121). `rd_hum`, `rd_temp`, `guard` and `t_start` are not written. -/
def beginTransaction (s : State) : State :=
  { setOutcome .none s with
    phase := .reqLow, lineOe := true, lineOut := .low, holdCnt := 0, pollCnt := 0, bitIdx := 0#6, frame := Frame.zero }

/-- Release of the line, the exit of `REQ_LOW` (R124); `line_out` keeps its value. -/
def releaseLine (s : State) : State := { s with lineOe := false, pollCnt := 0, phase := .hs1 }

/-- The exit of `HS3` beside `poll_cnt <- 0`: the capture loop is entered and the guard acquired (R127, R170). -/
def enterCapture (s : State) : State := acquireGuard { s with phase := .bitLo, bitIdx := 0#6 }

/-! ### The capture loop -/

/-- The exit of `BIT_LO` beside `poll_cnt <- 0` (R141): the tick of this same edge is stamped. -/
def stampStart (s : State) : State := { s with tStart := s.tickSample.toNat, phase := .bitHi }

/-- Leave the loop or advance, R147 beside `poll_cnt <- 0`. Above 63 the 6-bit register wraps, in a state that no run
reaches (log entry 5). -/
def advanceBit (s : State) : State :=
  if s.bitIdx = 39#6 then { releaseGuard s with phase := .check }
  else { s with bitIdx := s.bitIdx + 1#6, phase := .bitLo }

/-- A classified bit is stored and the loop advances (R146, R147). -/
def captureBit (b : Bool) (s : State) : State :=
  advanceBit { s with frame := storeBit s.frame s.bitIdx.toNat b, pollCnt := 0 }

/-! ### Around the engine -/

/-- The reset operation on the twelve registers (R230). The parameters, the environment and the display agent's bit are not
SWPD's registers and are not reset by `rst`. -/
def resetRegisters (s : State) : State :=
  { State.reset with digitPos := s.digitPos, cfg := s.cfg, stim := s.stim, cycle := s.cycle }

/-- The edge that takes the registers from those of `s` to those of `t`: the input values of this edge are used up, and
the display agent moves if the cycle is granted to it (R13, R190). -/
def closeEdge (s t : State) : State :=
  { t with digitPos := s.digitAfter, stim := s.stim.tail, cycle := s.cycle + 1 }

/-- What the sequencer runs in an enabled cycle: the operation whose code stands in `phase` (R180, R83). -/
def State.fetched (s : State) : Instr := decodePhase s.phase.code

/-- Inputs under which the next cycle is enabled: no reset and no request; what the list already gives for the other ports
stays, and an empty list gets one item. -/
def enabledHead : List Inputs → List Inputs
  | [] => [{ rst := false, start := false, line := .high, tick := 0, preReq := false, fire := false }]
  | i :: rest => { i with rst := false, preReq := false } :: rest

/-- The same list with the next value of `start` replaced. -/
def commandHead (b : Bool) : List Inputs → List Inputs
  | [] => []
  | i :: rest => { i with start := b } :: rest

end Sys2Proof.Machine
end

