-- ==== Sys2Proof/Machine/Capture.lean ====
section
/-! DEFINITION. The capture loop (42_bit_capture.md): the PHASE rows `BIT_LO` and `BIT_HI`, and the CELL rows `ZERO` and `ONE`. -/

namespace Sys2Proof.Machine

/-- `BIT_LO`, PHASE 101: `AwaitLeave(LOW)`, then stamp `t_start` (R141). -/
def execBitLo (s : State) : Host.Outcome State Fault Refusal :=
  .next (awaitLeave (waitLevel .bitLo) stampStart s)

/-- `BIT_HI`, PHASE 110: `AwaitLeave(HIGH)`, then measure, classify, store, advance (R142 to R147). -/
def execBitHi (s : State) : Host.Outcome State Fault Refusal :=
  .next (awaitLeave (waitLevel .bitHi) (captureBit s.measuredBit) s)

/-- `ZERO`, the symbol a width of at most the threshold is classified into: bit 0 is stored and the loop advances
(R91, R146, R147; log entry 9). -/
def execZero (s : State) : Host.Outcome State Fault Refusal := .next (captureBit false s)

/-- `ONE`, the symbol a width above the threshold is classified into: bit 1 is stored and the loop advances
(R91, R146, R147; log entry 9). -/
def execOne (s : State) : Host.Outcome State Fault Refusal := .next (captureBit true s)

end Sys2Proof.Machine
end

