-- ==== Sys2Proof/Machine/Command.lean ====
section
/-! DEFINITION. The two CMD rows (R82). As operations they act where the engine looks at the command, in an enabled cycle;
the reset and the freeze are decided before them, in Step.lean (R180). -/

namespace Sys2Proof.Machine

/-- `NOP`, CMD 0: no command; nothing changes (R120). -/
def execNop (s : State) : Host.Outcome State Fault Refusal := .next s

/-- `START`, CMD 1: in `IDLE` it begins one transaction (R121); in any other phase it has no effect (R98, R122). -/
def execStart (s : State) : Host.Outcome State Fault Refusal :=
  .next (if s.phase = .idle then beginTransaction s else s)

end Sys2Proof.Machine
end

