-- ==== Sys2Proof/Machine/Result.lean ====
section
/-! DEFINITION. The result of a transaction (43_checksum_result.md): the PHASE row `CHECK`, the OUTCOME rows, and FRAME. -/

namespace Sys2Proof.Machine

/-- `CHECK`, PHASE 111: the frame in `frame[0..4]` is judged and the transaction ends, at one edge (R160 to R163). -/
def execCheck (s : State) : Host.Outcome State Fault Refusal := .next (judgeFrame s)

/-- `NONE`, OUTCOME 00: no result yet; the tag comes to stand in `outcome` (R30, R43; log entry 7). -/
def execNone (s : State) : Host.Outcome State Fault Refusal := .next (setOutcome .none s)

/-- `SUCCESS`, OUTCOME 01: the transaction ends with its reading (R162, R160). -/
def execSuccess (s : State) : Host.Outcome State Fault Refusal := .next (raiseSuccess s)

/-- `TIMEOUT`, OUTCOME 10: `raise Timeout()` (R131, R201). -/
def execTimeout (s : State) : Host.Outcome State Fault Refusal := .next (raiseTimeout s)

/-- `CHECKSUM`, OUTCOME 11: `raise Checksum()` (R163, R160, R202). -/
def execChecksum (s : State) : Host.Outcome State Fault Refusal := .next (raiseChecksum s)

/-- `FRAME`: the five fields stand in `frame[0..4]` (R86) and the frame is judged by its validity (R87), as `CHECK` judges it
(R160 to R163; log entry 8). -/
def execFrame (h f t g c : Byte) (s : State) : Host.Outcome State Fault Refusal :=
  .next (judgeFrame { s with frame := ⟨h, f, t, g, c⟩ })

end Sys2Proof.Machine
end

