-- ==== Sys2Proof/Machine/Transaction.lean ====
section
/-! DEFINITION. The PHASE rows of transaction control: `IDLE`, `REQ_LOW`, `HS1`, `HS2`, `HS3` (41_transaction_control.md). -/

namespace Sys2Proof.Machine

/-- `IDLE`, PHASE 000: the CMD value is looked at; START begins a transaction (R121), no command changes nothing (R120). -/
def execIdle (s : State) : Host.Outcome State Fault Refusal :=
  .next (if s.cmdCode = 0b1#1 then beginTransaction s else s)

/-- `REQ_LOW`, PHASE 001: count the enabled cycles of the hold, then release (R123, R124). It samples nothing. -/
def execReqLow (s : State) : Host.Outcome State Fault Refusal :=
  .next (if s.holdCnt + 1 = s.cfg.holdCycles then releaseLine s
         else { s with holdCnt := countUp s.cfg s.holdCnt })

/-- `HS1`, PHASE 010: `AwaitLeave(HIGH)` (R125). -/
def execHs1 (s : State) : Host.Outcome State Fault Refusal :=
  .next (awaitLeave (waitLevel .hs1) (goto .hs2) s)

/-- `HS2`, PHASE 011: `AwaitLeave(LOW)` (R126). -/
def execHs2 (s : State) : Host.Outcome State Fault Refusal :=
  .next (awaitLeave (waitLevel .hs2) (goto .hs3) s)

/-- `HS3`, PHASE 100: `AwaitLeave(HIGH)`, then acquire the guard (R127, R170). -/
def execHs3 (s : State) : Host.Outcome State Fault Refusal :=
  .next (awaitLeave (waitLevel .hs3) enterCapture s)

end Sys2Proof.Machine
end

