-- ==== Sys2Proof/Machine/Dispatch.lean ====
section
/-! DEFINITION. The meaning of every row of the opcode table, one arm each. -/

namespace Sys2Proof.Machine

def exec (i : Instr) (s : State) : Host.Outcome State Fault Refusal :=
  match i with
  | .nop => Sys2Proof.Machine.execNop s
  | .start => Sys2Proof.Machine.execStart s
  | .idle => Sys2Proof.Machine.execIdle s
  | .reqLow => Sys2Proof.Machine.execReqLow s
  | .hs1 => Sys2Proof.Machine.execHs1 s
  | .hs2 => Sys2Proof.Machine.execHs2 s
  | .hs3 => Sys2Proof.Machine.execHs3 s
  | .bitLo => Sys2Proof.Machine.execBitLo s
  | .bitHi => Sys2Proof.Machine.execBitHi s
  | .check => Sys2Proof.Machine.execCheck s
  | .none => Sys2Proof.Machine.execNone s
  | .success => Sys2Proof.Machine.execSuccess s
  | .timeout => Sys2Proof.Machine.execTimeout s
  | .checksum => Sys2Proof.Machine.execChecksum s
  | .frame h f t g c => Sys2Proof.Machine.execFrame h f t g c s
  | .zero => Sys2Proof.Machine.execZero s
  | .one => Sys2Proof.Machine.execOne s

end Sys2Proof.Machine
end

