-- ==== Sys2Proof/Machine/Step.lean ====
section
/-! DEFINITION. One rising edge of `clk` (46_cycle_step.md R180). -/

namespace Sys2Proof.Machine

/-- Dispatch by R180, the first line that applies: the reset, the freeze, the operation of the phase. The engine's state
after the edge is closed by `closeEdge`, which uses up the inputs of this edge. -/
def step (s : State) : Host.Outcome State Fault Refusal :=
  if s.inputs.rst then .next (closeEdge s (resetRegisters s))
  else if s.frozen then .next (closeEdge s s)
  else
    match exec s.fetched s with
    | .next t => .next (closeEdge s t)
    | .fault r => .fault r
    | .refused r => .refused r

/-- `s` made to run one word of the opcode table at its very next edge. The sequencer has no fetch (R73): what it runs is
named by `phase` (R180), so a PHASE word is put into `phase`; a CMD word is put on `start` in `IDLE` (R82); a FRAME word is
put into `frame[0..4]` in `CHECK`, the one place a frame is read (R86, R160). An OUTCOME word alone selects no cycle, and
a number that is no word of its format is put nowhere (log entries 6 and 16). -/
def State.withFetchWord (s : State) (nbits w : Nat) : State :=
  let e := { s with stim := enabledHead s.stim }
  match tableFormat nbits with
  | some .phase =>
    match phaseOf w with
    | some p => { e with phase := p }
    | Option.none => s
  | some .cmd =>
    if w < 2 then { e with phase := .idle, stim := commandHead (decide (w = 1)) e.stim } else s
  | some .frame => if w < 2 ^ 40 then { e with phase := .check, frame := Frame.ofWord (BitVec.ofNat 40 w) } else s
  | _ => s

end Sys2Proof.Machine
end

