-- ==== Sys2Proof/Machine/Agents.lean ====
section
/-! DEFINITION. The companion agents at SWPD's ports (47_companion_agents.md; 00_scope.md R19), outside the block: the host
loop, the tick timer, the sensor as an encoder of frames, the reporting sink, and the closed loop of all of them with
`step`, in the stimulus notation of R102. `step` itself leaves every input free (R40). -/

namespace Sys2Proof.Machine

/-! ### The agents' own parameters -/

/-- The parameters of the host and of the display, each in clock cycles (log entry 17): `SAMPLE_PERIOD` (R185), the OPEN
`MIN_INTERVAL` (R242, D30), `REFRESH_PERIOD` (R190). The spec names no legal values. -/
structure AgentParams where
  samplePeriod : Nat
  minInterval : Nat
  refreshPeriod : Nat
deriving DecidableEq, Repr

/-! ### The host: SensorTask -/

/-- Where SensorTask is in its loop; it "keeps no state of its own besides" (R42). -/
inductive HostPos where
  /-- Waiting the sample interval, `left` cycles still to go, this one among them; 0 once it is over (R185). -/
  | sleep (left : Nat)
  /-- `start = 1`, held until `busy = 1` (R185, R98). -/
  | request
  /-- `start = 0`, until `busy = 0` (R185). -/
  | await
deriving DecidableEq, Repr

/-- A line of the reporting sink: success with its two integers, or which of the two errors (R187, R188). -/
inductive Report where
  | reading (temp hum : Byte)
  | timeoutError
  | checksumError
deriving DecidableEq, Repr

/-- The value of `start` the host drives (R185). -/
def HostPos.start : HostPos → Bool
  | .request => true
  | .sleep _ | .await => false

/-- Whether the minimum interval will have passed at the next edge, the first that can show a `start` raised now; `since` counts the
cycles from the end of the last transaction to the edge of this cycle, and before the first one there is nothing to keep apart
(R186, R242; log entry 17). -/
def intervalPassed (p : AgentParams) (since : Option Nat) : Bool :=
  match since with
  | Option.none => true
  | some n => decide (p.minInterval ≤ n + 1)

/-- Whether the host may raise `start`: only when `busy = 0`, and no sooner than the minimum interval (R186, R242). -/
def mayRaise (p : AgentParams) (since : Option Nat) (o : Outputs) : Bool := !o.busy && intervalPassed p since

/-- One cycle of the host that the preempting activity does not own (R185). A sleep of `SAMPLE_PERIOD` lasts just so many such cycles
before `start` is raised, or longer if it may not be raised then. DESIGN CHOICE (log entry 17): the cycles are counted from the one
after the host has read the outcome, and a period of 0 lasts one cycle. DESIGN CHOICE (log entry 25): what the host sees in a cycle
shows on `start` in its next one, so `start` is still 1 in the first cycle with `busy = 1`. -/
def HostPos.next (p : AgentParams) (since : Option Nat) (o : Outputs) : HostPos → HostPos
  | .sleep (n + 2) => .sleep (n + 1)
  | .sleep _ => if mayRaise p since o then .request else .sleep 0
  | .request => if o.busy then .await else .request
  | .await => if o.busy then .await else .sleep p.samplePeriod

/-- The report of an outcome (R187, R188); `NONE` is no result and gives no report (R204). -/
def reportOf (o : Outputs) : Option Report :=
  match o.outcome with
  | .none => Option.none
  | .success => some (.reading o.rdTemp o.rdHum)
  | .timeout => some .timeoutError
  | .checksum => some .checksumError

/-- What the host reports in this cycle: the outcome, when it has been waiting and sees `busy = 0` (R185, R187). -/
def HostPos.report (o : Outputs) : HostPos → Option Report
  | .await => if o.busy then Option.none else reportOf o
  | .sleep _ | .request => Option.none

/-! ### The tick timer -/

/-- The tick timer against the clock: the tick rate is the block's own `TICK_DEN / TICK_NUM` per microsecond (R214), and the times
of the clock edges, which the spec leaves open (R10's `T_clk`, 91 N2), stand here. DESIGN CHOICE (log entry 26): time is counted in
units of `1 / unitsPerUs` microsecond, `unitsPerUs` at least 1. -/
structure TickTimer where
  /-- The true count at cycle 0, while `sinceTick` is less than one tick. -/
  count0 : Nat
  /-- The time from the last tick to the edge of cycle 0. -/
  sinceTick : Nat
  unitsPerUs : Nat
  /-- The times from each of the first edges to the next, where the clock is not steady. -/
  gaps : List Nat
  /-- `T_clk`, the time from every later edge to the next. -/
  period : Nat
deriving DecidableEq, Repr

/-- The time from the edge of cycle 0 to the edge of cycle `n`. -/
def TickTimer.elapsed (k : TickTimer) (n : Nat) : Nat := (k.gaps.take n).sum + (n - k.gaps.length) * k.period

/-- The true count at the edge of cycle `n`: it advances "at the fixed rate of `TICK_DEN/TICK_NUM` ticks per microsecond, whether or
not SWPD is frozen, idle or in reset" (R214, R198); the port shows it modulo `2^TICK_W`. -/
def TickTimer.count (p : Params) (k : TickTimer) (n : Nat) : Nat :=
  k.count0 + (k.sinceTick + k.elapsed n) * p.tickDen / (k.unitsPerUs * p.tickNum)

/-- `TICK0 = t` of R102, one tick a cycle: the clock period is the tick period. -/
def TickTimer.perCycle (p : Params) (t : Nat) : TickTimer where
  count0 := t
  sinceTick := 0
  unitsPerUs := p.tickDen
  gaps := []
  period := p.tickNum

/-! ### The sensor, as an encoder of frames -/

/-- A level held for a number of cycles (R102). -/
abbrev Pulse := Level × Nat

/-- A pulse list, one sample per cycle (R102). -/
def samples (ps : List Pulse) : List Level := ps.flatMap fun p => List.replicate p.2 p.1

/-- What the line shows from the first cycle after the release edge on: a pulse list, `then` a level for ever (R102). -/
structure Waveform where
  pulses : List Pulse
  rest : Level
deriving DecidableEq, Repr

/-- The level `n` cycles after the first one of the list. -/
def Waveform.level (w : Waveform) (n : Nat) : Level := ((samples w.pulses)[n]?).getD w.rest

/-- The cycle counts of the test encoder (R199). -/
structure Encoder where
  preHigh : Nat
  respLow : Nat
  respHigh : Nat
  bitLow : Nat
  w0 : Nat
  w1 : Nat
  tailLow : Nat
deriving DecidableEq, Repr

/-- The encoder of REF and of TINY (95_test_vectors.md, configurations). -/
def Encoder.ref : Encoder := ⟨30, 80, 80, 50, 27, 70, 50⟩
def Encoder.tiny : Encoder := ⟨1, 2, 2, 1, 2, 5, 1⟩

/-- The two pulses of one cell (R90, R91, R199). -/
def Encoder.cell (e : Encoder) (b : Bool) : List Pulse := [(.low, e.bitLow), (.high, if b then e.w1 else e.w0)]

/-- `encode(frame)`: the pulse list of a frame, "then H" (R199, R92). -/
def Encoder.encodeFrame (e : Encoder) (f : Frame) : Waveform where
  pulses := [(.high, e.preHigh), (.low, e.respLow), (.high, e.respHigh)] ++
    (List.range 40).flatMap (fun n => e.cell (f.wireBit n)) ++ [(.low, e.tailLow)]
  rest := .high

/-! ### The whole system -/

/-- Every agent of R19 beside the engine: a stimulus in the notation of R102, with the host's loop for its START item. -/
structure System where
  core : State
  host : HostPos
  agents : AgentParams
  /-- The cycles from the edge that ended the last transaction to the edge of this cycle; none before the first end. -/
  sinceEnd : Option Nat
  reports : List Report
  /-- The samples the sensor still has to drive. -/
  wire : List Level
  /-- Whether the pulse list is being applied: from the first cycle with `line_oe = 0` on (R102, R199). -/
  wireOn : Bool
  /-- The level the line keeps for ever after the list, `then H` or `then L`; HIGH after a frame of the encoder (R199). -/
  rest : Level
  /-- Cycles in which `pre_req = 1`, `PRE`. -/
  pre : List Nat
  /-- Cycles in which a firing that is due acts, if they are granted (log entry 12). -/
  fires : List Nat
  /-- The display's free-running timer: the cycles until it next falls due (R190). -/
  dueIn : Nat
  /-- Firings that fell due and have not acted: deferred, or dropped if they never do (R178, 93 U7). -/
  owed : Nat
  /-- Cycles in which `rst = 1`, the `RST n` items. -/
  rsts : List Nat
  /-- The tick timer; `TICK0 = t` is `TickTimer.perCycle`. -/
  timer : TickTimer
  /-- The cycle number. -/
  now : Nat
deriving DecidableEq, Repr

/-- The system whose sensor has a waveform to drive, from the first cycle with `line_oe = 0` on (R102). -/
def System.withWaveform (y : System) (w : Waveform) : System :=
  { y with wire := samples w.pulses, wireOn := false, rest := w.rest }

/-- The system whose sensor answers as the encoder of R199: `encode(frame)` after the next release edge. -/
def System.sensorAnswers (y : System) (e : Encoder) (f : Frame) : System := y.withWaveform (e.encodeFrame f)

/-- Whether the sensor's list is applied in this cycle (R102). -/
def System.wireApplied (y : System) : Bool := y.wireOn || !y.core.lineOe

/-- `line_in` in this cycle: the list, then its rest level; before it is applied, `line_out` is shown (R102). DESIGN CHOICE (log
entry 23): once the list has begun it goes on, and then its rest level, also while `line_oe = 1` again; R102 has the rest level
kept for ever, and yet `line_out` shown while `line_oe = 1`. The block does not look at the line there. -/
def System.line (y : System) : Level :=
  if y.wireApplied then y.wire.headD y.rest else y.core.lineOut

/-- The firings that are due in this cycle and have not acted; one falls due every `REFRESH_PERIOD` cycles (R190). -/
def System.owedNow (y : System) : Nat := if y.dueIn = 0 then y.owed + 1 else y.owed

/-- The input values of this cycle; the tick timer shows its count under the law of R214 (R198, R19). -/
def System.inputs (y : System) : Inputs where
  rst := y.rsts.contains y.now
  start := y.host.start
  line := y.line
  tick := y.timer.count y.core.cfg y.now
  preReq := y.pre.contains y.now
  fire := y.fires.contains y.now && decide (0 < y.owedNow)

/-- The engine's state with this cycle's inputs at its ports. -/
def System.presented (y : System) : State := { y.core with stim := [y.inputs] }

/-- `sinceEnd` after an edge that takes the core to `t`: a transaction ends at the edge that takes a busy block to `IDLE`. -/
def System.sinceEndAfter (y : System) (t : State) : Option Nat :=
  if y.core.busy && !t.busy then some 1 else y.sinceEnd.map (· + 1)

/-- One edge of the whole system. The host runs only in the cycles that the preempting activity does not own, `pre_gnt = 0`
(R174, R189, R216, D32; in a reset cycle: log entry 24); the line, the ticks and the display's timer go on (R173, R190, R198). -/
def System.step (y : System) : Host.Outcome System Fault Refusal :=
  match Sys2Proof.Machine.step y.presented with
  | .next t =>
    let o := y.presented.outputs
    let held := y.presented.preGnt
    .next { y with
      core := t
      host := if held then y.host else y.host.next y.agents y.sinceEnd o
      sinceEnd := y.sinceEndAfter t
      reports := if held then y.reports else y.reports ++ (y.host.report o).toList
      wire := if y.wireApplied then y.wire.tail else y.wire
      wireOn := y.wireApplied
      dueIn := if y.dueIn = 0 then y.agents.refreshPeriod - 1 else y.dueIn - 1
      owed := if y.presented.displayFires then y.owedNow - 1 else y.owedNow
      now := y.now + 1 }
  | .fault r => .fault r
  | .refused r => .refused r

end Sys2Proof.Machine
end

