-- ==== Sys2Proof/Safety.lean ====
section
/-! DEFINITION. What claims are stated with: the invariant of 10_state.md R39, the transitions of R135, and the bound on the
edges a transaction has left (R134, R251 (d)). -/

namespace Sys2Proof.Machine

/-- The capture loop's phases (00_scope.md glossary, R175). -/
def inCapture (p : Phase) : Bool := decide (p = .bitLo) || decide (p = .bitHi)

/-- The phases in which the line is released (R39 (d)). -/
def released (p : Phase) : Bool :=
  decide (p ≠ .idle) && decide (p ≠ .reqLow)

/-- The phases from START to the entry of the capture loop, in which the frame is still clear (R121, R128). -/
def beforeCapture (p : Phase) : Bool :=
  decide (p = .reqLow) || decide (p = .hs1) || decide (p = .hs2) || decide (p = .hs3)

/-- R39 (a) to (h), with what makes it inductive: legal parameters (R9), `t_start` within `TICK_W` bits (R20), and a clear
frame before the capture loop (R121, R128). -/
structure StateInv (s : State) : Prop where
  legal : s.cfg.legal = true
  guardWindow : s.guard = inCapture s.phase
  idleLine : s.phase = .idle → s.lineOe = true ∧ s.lineOut = .high
  reqLowLine : s.phase = .reqLow → s.lineOe = true ∧ s.lineOut = .low
  releasedLine : released s.phase = true → s.lineOe = false
  busyNone : s.phase ≠ .idle → s.outcome = .none
  pollBound : s.pollCnt < s.cfg.pollBudget
  holdBound : s.holdCnt < s.cfg.holdCycles
  bitBound : s.bitIdx.toNat ≤ 39
  uncaptured : inCapture s.phase = true → ∀ j, j < 40 → s.bitIdx.toNat ≤ j → s.frame.wireBit j = false
  clearBefore : beforeCapture s.phase = true → s.frame = Frame.zero ∧ s.bitIdx = 0#6
  tickBound : s.tStart < 2 ^ s.cfg.tickW

/-- The phases that may follow a phase at an edge without reset: it may stay (a freeze, a count, a poll), go on, or jump to
`IDLE` (R135). -/
def successors : Phase → List Phase
  | .idle => [.idle, .reqLow]
  | .reqLow => [.reqLow, .hs1]
  | .hs1 => [.hs1, .hs2, .idle]
  | .hs2 => [.hs2, .hs3, .idle]
  | .hs3 => [.hs3, .bitLo, .idle]
  | .bitLo => [.bitLo, .bitHi, .idle]
  | .bitHi => [.bitHi, .bitLo, .check, .idle]
  | .check => [.check, .idle]

/-- A bound on the enabled edges left until `phase` is `IDLE`: the rest of the present wait or hold, a full budget for each
wait after it (83 waits in all, R118), and the edge of `CHECK` (R134, R251 (d)). -/
def State.edgesLeft (s : State) : Nat :=
  let b := s.cfg.pollBudget
  let wait := b - s.pollCnt
  match s.phase with
  | .idle => 0
  | .reqLow => (s.cfg.holdCycles - s.holdCnt) + 83 * b + 1
  | .hs1 => wait + 82 * b + 1
  | .hs2 => wait + 81 * b + 1
  | .hs3 => wait + 80 * b + 1
  | .bitLo => wait + b + (39 - s.bitIdx.toNat) * (2 * b) + 1
  | .bitHi => wait + (39 - s.bitIdx.toNat) * (2 * b) + 1
  | .check => 1

/-- The samples of one bit cell as the capture loop polls them: what is left of the LOW pulse, the HIGH pulse, and the LOW
sample that ends it, the first of the next cell's LOW pulse (R90, R149). `rise` is the first HIGH sample. -/
structure CellSamples where
  lows : List Inputs
  rise : Inputs
  highs : List Inputs
  fall : Inputs

/-- The samples in the order of their edges. -/
def CellSamples.inputs (c : CellSamples) : List Inputs := c.lows ++ c.rise :: c.highs ++ [c.fall]

/-- A cell that both waits of the loop get through: the levels are those of R90, no reset comes, every LOW sample before the
rise leaves a poll, and the HIGH pulse does not outlast the budget (R114, R149). The request `pre_req` is not restricted:
the guard masks it (R152). -/
structure CellSamples.clean (p : Params) (c : CellSamples) : Prop where
  low : ∀ x ∈ c.lows, x.rst = false ∧ x.line = .low
  rises : c.rise.rst = false ∧ c.rise.line = .high
  high : ∀ x ∈ c.highs, x.rst = false ∧ x.line = .high
  falls : c.fall.rst = false ∧ c.fall.line = .low
  lowBudget : c.lows.length < p.pollBudget
  highBudget : c.highs.length < p.pollBudget

/-- The width of a cell's HIGH pulse in ticks, modulo 2^TICK_W (R143). -/
def CellSamples.width (p : Params) (c : CellSamples) : Nat :=
  (BitVec.ofNat p.tickW c.fall.tick - BitVec.ofNat p.tickW c.rise.tick).toNat

/-- The bit a cell is read as: 1 exactly when its width is above the threshold (R145). -/
def CellSamples.bit (p : Params) (c : CellSamples) : Bool := decide (p.threshUs * p.tickDen < c.width p * p.tickNum)

/-- An edge at which no reset comes and the preempting activity asks for nothing. -/
abbrev quiet (x : Inputs) : Prop := x.rst = false ∧ x.preReq = false

/-- An edge at which the preempting activity, if there is one, asks for the cycle: frozen wherever the guard is down (R173). -/
def taken (p : Params) (x : Inputs) : Bool := p.hasPreemptor && x.preReq

/-- How many inputs of a list do not ask: the enabled cycles among them, wherever the guard is down. -/
def enabledIn (p : Params) (xs : List Inputs) : Nat := (xs.filter fun x => !taken p x).length

/-- An edge with neither a reset nor a taken cycle. -/
abbrev enabledEdge (p : Params) (x : Inputs) : Prop := x.rst = false ∧ taken p x = false

/-- Samples through which a wait outside the guard goes on leaving a level: each shows the level or is not polled (R173). -/
abbrev staysAt (p : Params) (l : Level) (xs : List Inputs) : Prop :=
  ∀ x ∈ xs, x.rst = false ∧ (taken p x = true ∨ x.line = l)

/-- The samples of a whole transaction, edge by edge: the command, the hold up to the release edge, the three waits of the
handshake each with the sample that ends it, the 40 cells, and `CHECK`, put off by the frozen cycles before its edge (R92, R135,
R160). The LOW sample that ends the handshake begins cell 0 (R127). -/
structure Exchange where
  command : Inputs
  hold : List Inputs
  release : Inputs
  pause : List Inputs
  respFall : Inputs
  respLow : List Inputs
  respRise : Inputs
  respHigh : List Inputs
  cellFall : Inputs
  cells : List CellSamples
  putOff : List Inputs
  judge : Inputs

/-- The samples in the order of their edges. -/
def Exchange.inputs (e : Exchange) : List Inputs :=
  e.command :: (e.hold ++ e.release :: (e.pause ++ e.respFall :: (e.respLow ++ e.respRise :: (e.respHigh ++
    e.cellFall :: (e.cells.flatMap CellSamples.inputs ++ (e.putOff ++ [e.judge]))))))

/-- An exchange that no reset cuts and no wait times out on: a START, `HOLD_CYCLES` enabled cycles of hold, the levels of the
handshake (R94), 40 clean cells, one enabled cycle of `CHECK`. Requests are allowed everywhere: they freeze cycles of the hold, of
the handshake, as long as the sample that ends each wait is polled, and of `CHECK`; they are masked in the cells. -/
structure Exchange.clean (p : Params) (e : Exchange) : Prop where
  start : enabledEdge p e.command ∧ e.command.start = true
  held : (∀ x ∈ e.hold, x.rst = false) ∧ enabledIn p e.hold + 1 = p.holdCycles
  releases : enabledEdge p e.release
  pauseHigh : staysAt p .high e.pause
  falls : enabledEdge p e.respFall ∧ e.respFall.line = .low
  respLow : staysAt p .low e.respLow
  rises : enabledEdge p e.respRise ∧ e.respRise.line = .high
  respHigh : staysAt p .high e.respHigh
  cellFalls : enabledEdge p e.cellFall ∧ e.cellFall.line = .low
  budgets : enabledIn p e.pause < p.pollBudget ∧ enabledIn p e.respLow < p.pollBudget ∧ enabledIn p e.respHigh < p.pollBudget
  forty : e.cells.length = 40
  cellsClean : ∀ c ∈ e.cells, c.clean p
  delayed : ∀ x ∈ e.putOff, x.rst = false ∧ taken p x = true
  judged : enabledEdge p e.judge

/-- Instructions one after the other, stopping at the first that gives no next state. -/
def execAll : List Instr → State → Host.Outcome State Fault Refusal
  | [], s => .next s
  | i :: is, s =>
    match exec i s with
    | .next t => execAll is t
    | .fault r => .fault r
    | .refused r => .refused r

/-- `k` edges one after the other. -/
def runEdges : Nat → State → Host.Outcome State Fault Refusal
  | 0, s => .next s
  | k + 1, s =>
    match step s with
    | .next t => runEdges k t
    | .fault r => .fault r
    | .refused r => .refused r

/-- How many of the first `k` inputs of a list carry a request: no more cycles than these can be frozen (R173). -/
def requests (k : Nat) (xs : List Inputs) : Nat := ((xs.take k).filter fun x => x.preReq).length

end Sys2Proof.Machine
end

