-- ==== Sys2Proof/Certificates/Slice0/Obligations.lean ====
section
/-! DEFINITION. The statements for the provers. A result statement has `exec i s = .next t` with the whole of `t` written out as
its conclusion, so it is the instruction's completion and its frame as well. -/

open Sys2Proof Sys2Proof.Machine

/-! ## Encodings -/

/-- Words written out from the tables of R82, R83, R84, R86 and R91 decode to the rows they stand for; a word above the width of
its format is rejected by name. -/
def Obligations.SpecWordsDecode : Prop :=
  decode .cmd 0b1 = .ok .start ∧ decode .phase 0b101 = .ok .bitLo ∧ decode .phase 0b111 = .ok .check ∧
  decode .outcome 0b10 = .ok .timeout ∧ decode .cell 0b1 = .ok .one ∧
  decode .frame 0x3C00190055 = .ok (.frame 60#8 0#8 25#8 0#8 85#8) ∧ decode .phase 0b1000 = .error (.tooWide .phase)

/-- Decoding the word of an instruction gives the instruction back, with every field of FRAME at every value. -/
def Obligations.DecodeOfEncodeIsIdentity : Prop :=
  ∀ i : Instr, i.wellFormed = true → decode (encode i).fmt (encode i).bits = .ok i

/-- No code within the width of its format is reserved, and each word has one meaning: the word of what it decodes to is the
word itself. -/
def Obligations.EveryWordInWidthHasOneMeaning : Prop :=
  ∀ (fmt : Format) (w : Nat),
    (w < 2 ^ fmt.width → ∃ i, decode fmt w = .ok i ∧ encode i = ⟨fmt, w⟩) ∧
    (¬ w < 2 ^ fmt.width → decode fmt w = .error (.tooWide fmt))

/-- R86: wire bit `n` of a frame is frame bit `39 - n`. -/
def Obligations.WireBitIsFrameBit : Prop :=
  ∀ (f : Frame) (n : Nat), n < 40 → f.wireBit n = f.toWord.getLsbD (39 - n)

/-! ## The edge -/

/-- R180: in an enabled cycle without reset, the step is the operation whose code stands in `phase`, and the inputs of this edge
are used up; the display agent does not move. -/
def Obligations.StepRunsTheDecodedInstruction : Prop :=
  ∀ (s : State) (i : Instr) (t : State), s.inputs.rst = false → s.frozen = false →
    decode .phase s.phase.code.toNat = .ok i → i.wellFormed = true → exec i s = .next t →
    step s = .next { t with digitPos := s.digitPos, stim := s.stim.tail, cycle := s.cycle + 1 }

/-- R181: exactly one next state for every value of every register and every input. -/
def Obligations.StepAnswersOneNextState : Prop :=
  ∀ s : State, ∃ t, step s = .next t ∧ ∀ t', step s = .next t' → t' = t

/-- R230: at any edge with `rst = 1` every register takes its reset value, whatever the phase, the request and the guard; the
parameters and the environment are not SWPD's registers. -/
def Obligations.ResetEdgeGivesTheResetValues : Prop :=
  ∀ s : State, s.inputs.rst = true → ∃ t, step s = .next t ∧
    t.phase = .idle ∧ t.bitIdx = 0#6 ∧ t.frame = ⟨0#8, 0#8, 0#8, 0#8, 0#8⟩ ∧ t.pollCnt = 0 ∧ t.holdCnt = 0 ∧ t.tStart = 0 ∧
    t.lineOe = true ∧ t.lineOut = .high ∧ t.guard = false ∧ t.outcome = .none ∧ t.rdHum = 0#8 ∧ t.rdTemp = 0#8 ∧
    t.cfg = s.cfg ∧ t.stim = s.stim.tail ∧ t.cycle = s.cycle + 1

/-- R38: the twelve registers right after reset. -/
def Obligations.RegistersAfterReset : Prop :=
  State.reset.phase = .idle ∧ State.reset.bitIdx = 0#6 ∧ State.reset.frame = ⟨0#8, 0#8, 0#8, 0#8, 0#8⟩ ∧
  State.reset.pollCnt = 0 ∧ State.reset.holdCnt = 0 ∧ State.reset.tStart = 0 ∧ State.reset.lineOe = true ∧
  State.reset.lineOut = .high ∧ State.reset.guard = false ∧ State.reset.outcome = .none ∧
  State.reset.rdHum = 0#8 ∧ State.reset.rdTemp = 0#8

/-- R173: a cycle is frozen when `rst = 0`, `pre_req = 1` and `guard = 0`; then no register of SWPD changes and the registered
outputs keep their values; with `guard = 1` every cycle is enabled. -/
def Obligations.FrozenCycleChangesNoRegister : Prop :=
  ∀ s : State,
    (s.frozen = true ↔ s.inputs.rst = false ∧ (s.cfg.hasPreemptor && s.inputs.preReq) = true ∧ s.guard = false) ∧
    (s.frozen = true →
      step s = .next { s with digitPos := s.digitAfter, stim := s.stim.tail, cycle := s.cycle + 1 }) ∧
    (s.guard = true → s.frozen = false) ∧
    (s.inputs.rst = false → s.frozen = false →
      ∃ i t, decode .phase s.phase.code.toNat = .ok i ∧ exec i s = .next t ∧
        step s = .next { t with digitPos := s.digitPos, stim := s.stim.tail, cycle := s.cycle + 1 })

/-- R174, R36: the grant. -/
def Obligations.GrantIsRequestAndNotGuard : Prop :=
  ∀ s : State, s.preGnt = ((s.cfg.hasPreemptor && s.inputs.preReq) && !s.guard) ∧
    (s.frozen = true ↔ s.preGnt = true ∧ s.inputs.rst = false)

/-- R183: the outputs are the registers of the same names, `busy` and `pre_gnt`; none depends on `start`, `line_in` or `tick` of
the same cycle. -/
def Obligations.OutputsAreTheRegisters : Prop :=
  (∀ s : State, s.outputs =
    { lineOe := s.lineOe, lineOut := s.lineOut, guard := s.guard, busy := decide (s.phase ≠ .idle), outcome := s.outcome,
      rdHum := s.rdHum, rdTemp := s.rdTemp, preGnt := (s.cfg.hasPreemptor && s.inputs.preReq) && !s.guard }) ∧
  (∀ (s : State) (a b : Inputs) (rest : List Inputs), a.preReq = b.preReq →
    ({ s with stim := a :: rest } : State).outputs = ({ s with stim := b :: rest } : State).outputs)

/-- R179: without a preemptor nothing is granted and no cycle is frozen. -/
def Obligations.WithoutPreemptorNothingIsFrozen : Prop :=
  ∀ s : State, s.cfg.hasPreemptor = false → s.preGnt = false ∧ s.frozen = false

/-! ## CMD and IDLE -/

/-- R120: no command in `IDLE` changes no register. -/
def Obligations.IdleWithoutCommandChangesNothing : Prop :=
  ∀ s : State, s.inputs.start = false → exec .idle s = .next s

/-- The row NOP changes nothing. That it is an operation of every phase is the model's reading (log entry 10). -/
def Obligations.NopChangesNothing : Prop := ∀ s : State, exec .nop s = .next s

/-- R121: START seen in `IDLE` begins a transaction. -/
def Obligations.StartBeginsATransaction : Prop :=
  ∀ s : State,
    (s.phase = .idle → exec .start s = .next { s with
      phase := .reqLow, lineOe := true, lineOut := .low, holdCnt := 0, pollCnt := 0, bitIdx := 0#6,
      frame := ⟨0#8, 0#8, 0#8, 0#8, 0#8⟩, outcome := .none }) ∧
    (s.inputs.start = true → exec .idle s = .next { s with
      phase := .reqLow, lineOe := true, lineOut := .low, holdCnt := 0, pollCnt := 0, bitIdx := 0#6,
      frame := ⟨0#8, 0#8, 0#8, 0#8, 0#8⟩, outcome := .none })

/-- The row START in any phase other than `IDLE` has no effect (log entry 10). -/
def Obligations.StartOutsideIdleHasNoEffect : Prop :=
  ∀ s : State, s.phase ≠ .idle → exec .start s = .next s

/-- R98: `start` in a cycle that is not an enabled `IDLE` cycle has no effect then or later: whichever value it has there, the
state after the edge is the same. -/
def Obligations.StartIsIgnoredWhenBusyOrFrozen : Prop :=
  ∀ (s : State) (x : Inputs) (rest : List Inputs) (b : Bool), s.stim = x :: rest → s.phase ≠ .idle ∨ s.frozen = true →
    step { s with stim := { x with start := b } :: rest } = step s

/-! ## Transaction control -/

/-- R123, R124 in one enabled cycle of `REQ_LOW`. That the count is taken modulo 2^CNT_W is the model's choice (log entry 3); by
`CountersDoNotWrap` it does not wrap in legal operation. -/
def Obligations.ReqLowCountsThenReleases : Prop :=
  ∀ s : State, exec .reqLow s = .next (
    if s.holdCnt + 1 = s.cfg.holdCycles then { s with lineOe := false, pollCnt := 0, phase := .hs1 }
    else { s with holdCnt := (s.holdCnt + 1) % 2 ^ s.cfg.cntW })

/-- R125: `AwaitLeave(HIGH)`. That `poll_cnt` counts modulo 2^CNT_W is the model's choice (log entry 3). -/
def Obligations.Hs1LeavesHigh : Prop :=
  ∀ s : State, exec .hs1 s = .next (
    if s.inputs.line = .low then { s with phase := .hs2, pollCnt := 0 }
    else if s.pollCnt + 1 = s.cfg.pollBudget then
      { s with guard := false, outcome := .timeout, lineOe := true, lineOut := .high, phase := .idle }
    else { s with pollCnt := (s.pollCnt + 1) % 2 ^ s.cfg.cntW })

/-- R126: `AwaitLeave(LOW)`. That `poll_cnt` counts modulo 2^CNT_W is the model's choice (log entry 3). -/
def Obligations.Hs2LeavesLow : Prop :=
  ∀ s : State, exec .hs2 s = .next (
    if s.inputs.line = .high then { s with phase := .hs3, pollCnt := 0 }
    else if s.pollCnt + 1 = s.cfg.pollBudget then
      { s with guard := false, outcome := .timeout, lineOe := true, lineOut := .high, phase := .idle }
    else { s with pollCnt := (s.pollCnt + 1) % 2 ^ s.cfg.cntW })

/-- R127: `AwaitLeave(HIGH)`, then the guard is acquired. That `poll_cnt` counts modulo 2^CNT_W is the model's choice
(log entry 3). -/
def Obligations.Hs3LeavesHighAndAcquires : Prop :=
  ∀ s : State, exec .hs3 s = .next (
    if s.inputs.line = .low then { s with phase := .bitLo, pollCnt := 0, bitIdx := 0#6, guard := true }
    else if s.pollCnt + 1 = s.cfg.pollBudget then
      { s with guard := false, outcome := .timeout, lineOe := true, lineOut := .high, phase := .idle }
    else { s with pollCnt := (s.pollCnt + 1) % 2 ^ s.cfg.cntW })

/-! ## The capture loop -/

/-- R141: `AwaitLeave(LOW)`, then the tick of this same edge is stamped. That `poll_cnt` counts modulo 2^CNT_W is the model's
choice (log entry 3). -/
def Obligations.BitLoStampsTheRise : Prop :=
  ∀ s : State, exec .bitLo s = .next (
    if s.inputs.line = .high then
      { s with phase := .bitHi, pollCnt := 0, tStart := s.inputs.tick % 2 ^ s.cfg.tickW }
    else if s.pollCnt + 1 = s.cfg.pollBudget then
      { s with guard := false, outcome := .timeout, lineOe := true, lineOut := .high, phase := .idle }
    else { s with pollCnt := (s.pollCnt + 1) % 2 ^ s.cfg.cntW })

/-- R142 to R147: `AwaitLeave(HIGH)`, then measure modulo 2^TICK_W, classify exactly, store at byte `n div 8`, bit
`7 - n mod 8` (`storeBit`, stated in `StoreBitWritesOneFrameBit`), advance or leave the loop. Two clauses are the model's choice:
`poll_cnt` counts modulo 2^CNT_W (log entry 3), and what is stored and counted with `bit_idx` from 40 on (log entry 5). -/
def Obligations.BitHiCapturesTheBit : Prop :=
  ∀ s : State,
    let dt := (BitVec.ofNat s.cfg.tickW s.inputs.tick - BitVec.ofNat s.cfg.tickW s.tStart).toNat
    let b := decide (dt * s.cfg.tickNum > s.cfg.threshUs * s.cfg.tickDen)
    exec .bitHi s = .next (
      if s.inputs.line = .low then
        if s.bitIdx = 39#6 then
          { s with frame := storeBit s.frame s.bitIdx.toNat b, pollCnt := 0, guard := false, phase := .check }
        else
          { s with frame := storeBit s.frame s.bitIdx.toNat b, pollCnt := 0, bitIdx := s.bitIdx + 1#6, phase := .bitLo }
      else if s.pollCnt + 1 = s.cfg.pollBudget then
        { s with guard := false, outcome := .timeout, lineOe := true, lineOut := .high, phase := .idle }
      else { s with pollCnt := (s.pollCnt + 1) % 2 ^ s.cfg.cntW })

/-- R146, R61: the store of bit number `n` writes wire bit `n`, which is bit `7 - n mod 8` of byte `n div 8`, and no other. -/
def Obligations.StoreBitWritesOneFrameBit : Prop :=
  ∀ (f : Frame) (n : Nat) (b : Bool), n < 40 →
    (∀ j, j < 40 → (storeBit f n b).wireBit j = if j = n then b else f.wireBit j) ∧
    [f.b0, f.b1, f.b2, f.b3, f.b4][n / 8]?.map (fun x => x.getLsbD (7 - n % 8)) = some (f.wireBit n)

/-- From bit number 40 on there is no byte to store to and nothing is written: the model's choice, in states that no run reaches
(log entry 5). -/
def Obligations.NoBitIsStoredBeyondTheFrame : Prop :=
  ∀ (f : Frame) (n : Nat) (b : Bool), 40 ≤ n → storeBit f n b = f

/-- The rows ZERO and ONE: the symbol's bit is stored and the loop advances. That a CELL row has this as its operation is the
model's reading (log entry 9). -/
def Obligations.CellSymbolStoresItsBit : Prop :=
  ∀ s : State,
    exec .zero s = .next (
      if s.bitIdx = 39#6 then
        { s with frame := storeBit s.frame s.bitIdx.toNat false, pollCnt := 0, guard := false, phase := .check }
      else { s with frame := storeBit s.frame s.bitIdx.toNat false, pollCnt := 0, bitIdx := s.bitIdx + 1#6, phase := .bitLo }) ∧
    exec .one s = .next (
      if s.bitIdx = 39#6 then
        { s with frame := storeBit s.frame s.bitIdx.toNat true, pollCnt := 0, guard := false, phase := .check }
      else { s with frame := storeBit s.frame s.bitIdx.toNat true, pollCnt := 0, bitIdx := s.bitIdx + 1#6, phase := .bitLo })

/-- R145: above the threshold is 1, below is 0, and exactly equal is 0. -/
def Obligations.ThresholdIsStrict : Prop :=
  ∀ (p : Params) (dt : Nat),
    (dt * p.tickNum > p.threshUs * p.tickDen → isOne p dt = true) ∧
    (dt * p.tickNum < p.threshUs * p.tickDen → isOne p dt = false) ∧
    (dt * p.tickNum = p.threshUs * p.tickDen → isOne p dt = false)

/-- R143: when the true counter advanced by `d` ticks since the start was stamped, `dt` is `d` modulo 2^TICK_W, so `d` itself if
`d` is below 2^TICK_W, whether or not the counter wrapped. -/
def Obligations.ElapsedTicksSurviveTheWrap : Prop :=
  ∀ (s : State) (start d : Nat), s.tStart = start % 2 ^ s.cfg.tickW → s.inputs.tick % 2 ^ s.cfg.tickW = (start + d) % 2 ^ s.cfg.tickW →
    s.elapsedTicks.toNat = d % 2 ^ s.cfg.tickW ∧ (d < 2 ^ s.cfg.tickW → s.elapsedTicks.toNat = d)

/-! ## The result -/

/-- R160 to R163: the frame is judged by its sum, the store is written on a match only, and the transaction ends. -/
def Obligations.CheckJudgesTheFrame : Prop :=
  ∀ s : State, exec .check s = .next (
    if (s.frame.b0.toNat + s.frame.b1.toNat + s.frame.b2.toNat + s.frame.b3.toNat) % 256 = s.frame.b4.toNat then
      { s with outcome := .success, rdHum := s.frame.b0, rdTemp := s.frame.b2,
               lineOe := true, lineOut := .high, phase := .idle }
    else { s with outcome := .checksum, lineOe := true, lineOut := .high, phase := .idle })

/-- The rows NONE, SUCCESS and CHECKSUM as operations: the tag stands in `outcome`, with the actions of its rule; NONE writes
nothing else and ends nothing. That they are operations of their own is the model's reading (log entry 7). The row TIMEOUT is
`TimeoutKeepsTheStore`. -/
def Obligations.NoneSuccessAndChecksumSetTheirTag : Prop :=
  ∀ s : State,
    exec .none s = .next { s with outcome := .none } ∧
    exec .success s = .next { s with outcome := .success, rdHum := s.frame.b0, rdTemp := s.frame.b2,
                                     lineOe := true, lineOut := .high, phase := .idle } ∧
    exec .checksum s = .next { s with outcome := .checksum, lineOe := true, lineOut := .high, phase := .idle }

/-- R131: `raise Timeout()`, as the row TIMEOUT. That the row is an operation of its own is the model's reading (log entry 7); that a
spent budget acts as it is `WaitsRunTheRowTheyFind`. -/
def Obligations.TimeoutKeepsTheStore : Prop :=
  ∀ s : State, exec .timeout s = .next
    { s with guard := false, outcome := .timeout, lineOe := true, lineOut := .high, phase := .idle }

/-- The row FRAME: the fields stand in `frame[0..4]` and are judged as `CHECK` judges them. That FRAME is an operation is the
model's reading (log entry 8). -/
def Obligations.FrameStandsAndIsJudged : Prop :=
  ∀ (s : State) (h f t g c : Byte), exec (.frame h f t g c) s = .next (
    if (h.toNat + f.toNat + t.toNat + g.toNat) % 256 = c.toNat then
      { s with frame := ⟨h, f, t, g, c⟩, outcome := .success, rdHum := h, rdTemp := t,
               lineOe := true, lineOut := .high, phase := .idle }
    else { s with frame := ⟨h, f, t, g, c⟩, outcome := .checksum, lineOe := true, lineOut := .high, phase := .idle })

/-- Any change of exactly one byte of a valid frame makes `CHECK` end in CHECKSUM with the store untouched. -/
def Obligations.OneCorruptByteIsCaught : Prop :=
  ∀ (s : State) (f : Frame) (x : Byte),
    (f.b0.toNat + f.b1.toNat + f.b2.toNat + f.b3.toNat) % 256 = f.b4.toNat →
    (s.frame = { f with b0 := x } ∧ x ≠ f.b0) ∨ (s.frame = { f with b1 := x } ∧ x ≠ f.b1) ∨
    (s.frame = { f with b2 := x } ∧ x ≠ f.b2) ∨ (s.frame = { f with b3 := x } ∧ x ≠ f.b3) ∨
    (s.frame = { f with b4 := x } ∧ x ≠ f.b4) →
    exec .check s = .next { s with outcome := .checksum, lineOe := true, lineOut := .high, phase := .idle }

/-! ## How the formats meet -/

/-- R104: the CMD value is looked at by the `IDLE` operation, which acts as the row it decodes to. -/
def Obligations.IdleRunsTheCommandWord : Prop :=
  ∀ s : State, s.phase = .idle → exec .idle s = exec (decodeCmd s.cmdCode) s

/-- `CHECK` acts as the FRAME row that the five frame bytes decode to (the model's reading of FRAME, log entry 8), and as the
OUTCOME row of what it finds. -/
def Obligations.CheckRunsTheFrameWord : Prop :=
  ∀ s : State, exec .check s = exec (decodeFrame s.frame.toWord) s ∧
    (dataSum s.frame = s.frame.b4 → exec .check s = exec .success s) ∧
    (dataSum s.frame ≠ s.frame.b4 → exec .check s = exec .checksum s)

/-- The exit of `BIT_HI` acts as the CELL row its width is classified into; every spent budget acts as the OUTCOME row TIMEOUT.
That the rows are operations of their own is the model's reading: log entry 7 for TIMEOUT, log entry 9 for the CELL rows. -/
def Obligations.WaitsRunTheRowTheyFind : Prop :=
  ∀ s : State,
    (s.inputs.line = .low → exec .bitHi s = exec (decodeCell s.cellCode) s) ∧
    (s.pollCnt + 1 = s.cfg.pollBudget →
      (s.inputs.line = .high → exec .hs1 s = exec .timeout s ∧ exec .hs3 s = exec .timeout s ∧ exec .bitHi s = exec .timeout s) ∧
      (s.inputs.line = .low → exec .hs2 s = exec .timeout s ∧ exec .bitLo s = exec .timeout s))

/-- Each phase looks only at the inputs its rule names (R180): two values of the inputs that agree where the present cycle looks
give the same state after the edge. -/
def Obligations.EachCycleLooksOnlyAtItsInputs : Prop :=
  ∀ (s : State) (x y : Inputs) (rest : List Inputs), s.stim = x :: rest →
    x.rst = y.rst → x.preReq = y.preReq → x.fire = y.fire →
    (x.rst = false → s.frozen = false →
      (s.phase = .idle → x.start = y.start) ∧
      (s.phase ∈ [Phase.hs1, .hs2, .hs3, .bitLo, .bitHi] → x.line = y.line) ∧
      (s.phase = .bitLo → x.line = .high → x.tick = y.tick) ∧
      (s.phase = .bitHi → x.line = .low → x.tick = y.tick)) →
    step { s with stim := y :: rest } = step s

/-! ## Invariants and whole-machine rules -/

/-- R39 holds right after reset. `cfg` is the model's choice there (log entry 2). -/
def Obligations.InvariantHoldsAtReset : Prop := StateInv State.reset

/-- R39 (a) to (h) is kept by every step, under every input. -/
def Obligations.StepKeepsTheInvariant : Prop := ∀ s t : State, StateInv s → step s = .next t → StateInv t

/-- R17: under the invariant no counter wraps when it counts. -/
def Obligations.CountersDoNotWrap : Prop :=
  ∀ s : State, StateInv s → countUp s.cfg s.pollCnt = s.pollCnt + 1 ∧ countUp s.cfg s.holdCnt = s.holdCnt + 1 ∧
    (s.bitIdx ≠ 39#6 → (s.bitIdx + 1#6).toNat = s.bitIdx.toNat + 1)

/-- The parameters are written by no step, and a reset aside the display agent's bit moves only in a granted cycle. -/
def Obligations.ParametersAreFixed : Prop :=
  ∀ s t : State, step s = .next t → t.cfg = s.cfg ∧ t.stim = s.stim.tail ∧ t.cycle = s.cycle + 1 ∧
    (t.digitPos ≠ s.digitPos → s.preGnt = true)

/-- R31, R66: the reading store changes at a reset edge, and else only at the edge of `CHECK` that sets SUCCESS, to bytes 0 and 2
of the matching frame. -/
def Obligations.StoreChangesOnlyOnSuccess : Prop :=
  ∀ s t : State, step s = .next t →
    (t.rdHum = s.rdHum ∧ t.rdTemp = s.rdTemp) ∨
    (s.inputs.rst = true ∧ t.rdHum = 0#8 ∧ t.rdTemp = 0#8) ∨
    (s.inputs.rst = false ∧ s.frozen = false ∧ s.phase = .check ∧ dataSum s.frame = s.frame.b4 ∧
      t.outcome = .success ∧ t.rdHum = s.frame.b0 ∧ t.rdTemp = s.frame.b2)

/-- R30, R184: `outcome` is NONE from START until the edge that returns to `IDLE`, and takes a final value at that edge; in
`IDLE` it keeps it. -/
def Obligations.OutcomeIsFinalAtTheLastEdge : Prop :=
  ∀ s t : State, StateInv s → s.inputs.rst = false → step s = .next t →
    (s.phase ≠ .idle → t.phase = .idle → t.outcome = .success ∨ t.outcome = .timeout ∨ t.outcome = .checksum) ∧
    (s.phase ≠ .idle → t.phase ≠ .idle → t.outcome = .none) ∧
    (s.phase = .idle → t.phase = .idle → t.outcome = s.outcome) ∧
    (s.phase = .idle → t.phase ≠ .idle → t.outcome = .none)

/-- R135: the only transitions, and how the loop is left. -/
def Obligations.PhasesAreVisitedInOrder : Prop :=
  ∀ s t : State, s.inputs.rst = false → step s = .next t →
    t.phase ∈ successors s.phase ∧
    (s.phase = .bitHi → t.phase = .bitLo → s.bitIdx ≠ 39#6 ∧ t.bitIdx = s.bitIdx + 1#6) ∧
    (s.phase = .bitHi → t.phase = .check → s.bitIdx = 39#6)

/-- R27, R136: without a reset the line changes direction at two edges only, the release and the end of a transaction. -/
def Obligations.LineTurnsOnlyAtReleaseAndEnd : Prop :=
  ∀ s t : State, StateInv s → s.inputs.rst = false → step s = .next t → t.lineOe ≠ s.lineOe →
    (s.phase = .reqLow ∧ t.phase = .hs1 ∧ t.lineOe = false) ∨
    (s.phase ≠ .idle ∧ s.phase ≠ .reqLow ∧ t.phase = .idle ∧ t.lineOe = true ∧ t.lineOut = .high)

/-- R170, R171, R172: where the guard is set and where it is cleared. -/
def Obligations.GuardChangesOnlyAtItsEdges : Prop :=
  ∀ s t : State, step s = .next t →
    (s.guard = false → t.guard = true → s.phase = .hs3 ∧ t.phase = .bitLo ∧ s.inputs.rst = false ∧ s.preReq = false) ∧
    (s.guard = true → t.guard = false →
      (s.phase = .bitHi ∧ s.bitIdx = 39#6 ∧ t.phase = .check) ∨ (t.phase = .idle ∧ t.outcome = .timeout) ∨ s.inputs.rst = true)

/-- R128: a handshake wait that times out has read no bit. -/
def Obligations.HandshakeTimeoutReadsNoBit : Prop :=
  ∀ s t : State, StateInv s → s.phase ∈ [Phase.hs1, .hs2, .hs3] → s.inputs.rst = false → step s = .next t → t.phase = .idle →
    t.outcome = .timeout ∧ t.bitIdx = 0#6 ∧ t.frame = ⟨0#8, 0#8, 0#8, 0#8, 0#8⟩ ∧ s.guard = false ∧ t.guard = false ∧
    t.rdHum = s.rdHum ∧ t.rdTemp = s.rdTemp

/-! ## Waits, runs and bounds -/

/-- R113: a poll that reads the level being left and does not spend the budget counts one, without a wrap, and changes nothing
else. -/
def Obligations.PollThatFindsNoChangeCountsOne : Prop :=
  ∀ (s : State) (i : Instr) (l : Level),
    (i, l) ∈ [(Instr.hs1, Level.high), (.hs2, .low), (.hs3, .high), (.bitLo, .low), (.bitHi, .high)] →
    StateInv s → s.inputs.line = l → s.pollCnt + 1 ≠ s.cfg.pollBudget → exec i s = .next { s with pollCnt := s.pollCnt + 1 }

/-- R114: from its first poll, a wait whose samples all read the level `l` being left is still the same wait after any number of
polls below the budget, with that number in `poll_cnt`; it exits OK at the poll that reads the other level, and it times out at
the `POLL_BUDGET`-th poll if that reads the level too. -/
def Obligations.WaitCountsItsPolls : Prop :=
  ∀ (s : State) (p : Phase) (l : Level) (held : List Inputs) (x : Inputs) (rest : List Inputs),
    (p, l) ∈ [(Phase.hs1, Level.high), (.hs2, .low), (.hs3, .high), (.bitLo, .low), (.bitHi, .high)] →
    StateInv s → s.phase = p → s.pollCnt = 0 → s.stim = held ++ x :: rest →
    (∀ y ∈ held, quiet y ∧ y.line = l) → quiet x → held.length < s.cfg.pollBudget →
    (∃ t, runEdges held.length s = .next t ∧ t.phase = p ∧ t.pollCnt = held.length) ∧
    (x.line ≠ l → ∃ t, runEdges (held.length + 1) s = .next t ∧ t.phase ≠ p ∧ t.phase ≠ .idle ∧ t.pollCnt = 0) ∧
    (x.line = l → held.length + 1 = s.cfg.pollBudget →
      ∃ t, runEdges (held.length + 1) s = .next t ∧ t.phase = .idle ∧ t.outcome = .timeout ∧
        t.rdHum = s.rdHum ∧ t.rdTemp = s.rdTemp)

/-- R123: `REQ_LOW` lasts exactly the enabled cycles that its count still lacks to `HOLD_CYCLES` (all of them when `hold_cnt = 0`),
and frozen cycles add to its length. With `n` the first number of edges that holds so many enabled ones, the block is in `REQ_LOW`,
output-LOW, in each of these `n` cycles, and then the line is released. -/
def Obligations.HoldLastsExactly : Prop :=
  ∀ (s : State) (n : Nat), StateInv s → s.phase = .reqLow → (∀ x ∈ s.stim.take n, x.rst = false) →
    enabledIn s.cfg (s.stim.take n) = s.cfg.holdCycles - s.holdCnt →
    (∀ k, k < n → enabledIn s.cfg (s.stim.take k) < s.cfg.holdCycles - s.holdCnt) →
    (∀ k, k < n →
      ∃ t, runEdges k s = .next t ∧ t.phase = .reqLow ∧ t.lineOe = true ∧ t.lineOut = .low ∧
        t.holdCnt = s.holdCnt + enabledIn s.cfg (s.stim.take k)) ∧
    ∃ t, runEdges n s = .next t ∧ t.phase = .hs1 ∧ t.lineOe = false ∧ t.lineOut = .low ∧ t.pollCnt = 0 ∧
      t.stim = s.stim.drop n

/-- R134, R251 (d): an enabled edge of a busy block uses up at least one of the edges left, a frozen one none, and START sets
them to what a whole transaction can take after its own edge. -/
def Obligations.EnabledEdgesUseUpTheBound : Prop :=
  ∀ s t : State, StateInv s → s.inputs.rst = false → step s = .next t →
    (s.frozen = true → t.edgesLeft = s.edgesLeft) ∧
    (s.frozen = false → s.phase ≠ .idle → t.edgesLeft + 1 ≤ s.edgesLeft) ∧
    (s.phase = .idle → t.phase = .reqLow → t.edgesLeft = s.cfg.holdCycles + 83 * s.cfg.pollBudget + 1)

/-- R134: every transaction ends. With no reset, a busy block is back in `IDLE` within its edges left and one edge more for each
edge that carries a request. -/
def Obligations.EveryTransactionEnds : Prop :=
  ∀ (s : State) (k : Nat), StateInv s → s.phase ≠ .idle → (∀ x ∈ s.stim, x.rst = false) →
    k ≤ s.stim.length → s.edgesLeft + requests k s.stim ≤ k →
    ∃ j t, j ≤ k ∧ runEdges j s = .next t ∧ t.phase = .idle ∧ t.outcome ≠ .none

/-- R251 (b): no sensor. After a START, a line that reads HIGH at every poll after the release ends the transaction in TIMEOUT at
the edge that is the enabled edge number `1 + HOLD_CYCLES + POLL_BUDGET`, and at none before, the store untouched: the `n` edges are
these and the `z` frozen ones among them. What `line_in` shows before the release plays no part (R32, 93 U11). -/
def Obligations.NoSensorTimesOutOnTime : Prop :=
  ∀ (s : State) (n : Nat), StateInv s → s.phase = .idle → s.frozen = false → s.inputs.start = true →
    (∀ x ∈ s.stim.take n, x.rst = false) →
    enabledIn s.cfg (s.stim.take n) = 1 + s.cfg.holdCycles + s.cfg.pollBudget →
    (∀ k, k < n → enabledIn s.cfg (s.stim.take k) < 1 + s.cfg.holdCycles + s.cfg.pollBudget) →
    (∀ k x, k < n → s.stim[k]? = some x → 1 + s.cfg.holdCycles ≤ enabledIn s.cfg (s.stim.take k) →
      taken s.cfg x = true ∨ x.line = .high) →
    (∀ k, 0 < k → k < n → ∃ t, runEdges k s = .next t ∧ t.phase ≠ .idle ∧ t.outcome = .none) ∧
    ∃ t, runEdges n s = .next t ∧ t.phase = .idle ∧ t.outcome = .timeout ∧ t.rdHum = s.rdHum ∧ t.rdTemp = s.rdTemp

/-- R149 with R141 to R147: the two waits of a cell take one edge per sample, and what they leave is the bit of the cell's width
stored and the loop advanced, `t_start` at the rise; a request is masked throughout. -/
def Obligations.OneCellIsCaptured : Prop :=
  ∀ (s : State) (c : CellSamples) (rest : List Inputs), StateInv s → s.phase = .bitLo → s.pollCnt = 0 →
    c.clean s.cfg → s.stim = c.inputs ++ rest →
    runEdges c.inputs.length s = .next { captureBit (c.bit s.cfg) s with
      tStart := c.rise.tick % 2 ^ s.cfg.tickW, stim := rest, cycle := s.cycle + c.inputs.length }

/-- R92 and R86 at the rows of the opcode table: the 40 CELL symbols of a frame, one after the other from `bit_idx = 0`, leave
exactly that frame in the frame registers and the loop left. -/
def Obligations.FortySymbolsAssembleTheFrame : Prop :=
  ∀ (f : Frame) (s : State), s.bitIdx = 0#6 →
    execAll f.cells s = .next { s with frame := f, pollCnt := 0, bitIdx := 39#6, guard := false, phase := .check }

/-- R151, the round trip: 40 clean cells on the wire whose widths are above the threshold exactly where a frame has its ones are
captured as that frame, under any requests, in as many edges as there are samples. -/
def Obligations.CaptureLoopRecoversTheFrame : Prop :=
  ∀ (s : State) (f : Frame) (cs : List CellSamples) (rest : List Inputs),
    StateInv s → s.phase = .bitLo → s.bitIdx = 0#6 → s.pollCnt = 0 → cs.length = 40 →
    (∀ c ∈ cs, c.clean s.cfg) → cs.map (fun c => c.bit s.cfg) = (List.range 40).map f.wireBit →
    s.stim = cs.flatMap CellSamples.inputs ++ rest →
    ∃ t, runEdges (cs.flatMap CellSamples.inputs).length s = .next t ∧ t.phase = .check ∧ t.frame = f ∧ t.guard = false ∧
      t.bitIdx = 39#6 ∧ t.outcome = .none ∧ t.rdHum = s.rdHum ∧ t.rdTemp = s.rdTemp ∧ t.stim = rest

/-- A clean transaction from end to end (R251 (a), R160 to R163): START, the hold, a handshake and 40 cells that no wait times out
on, and the enabled edge of `CHECK`, with frozen cycles wherever they hide no edge of the handshake. The frame on the wire is judged:
its two readings are stored, or the store is kept and CHECKSUM raised. -/
def Obligations.CleanTransactionDeliversTheReading : Prop :=
  ∀ (s : State) (f : Frame) (e : Exchange) (rest : List Inputs),
    StateInv s → s.phase = .idle → e.clean s.cfg → e.cells.map (fun c => c.bit s.cfg) = (List.range 40).map f.wireBit →
    s.stim = e.inputs ++ rest →
    ∃ t, runEdges e.inputs.length s = .next t ∧ t.phase = .idle ∧ t.lineOe = true ∧ t.lineOut = .high ∧ t.guard = false ∧
      t.frame = f ∧ t.stim = rest ∧
      (dataSum f = f.b4 → t.outcome = .success ∧ t.rdHum = f.b0 ∧ t.rdTemp = f.b2) ∧
      (dataSum f ≠ f.b4 → t.outcome = .checksum ∧ t.rdHum = s.rdHum ∧ t.rdTemp = s.rdTemp)

/-! ## Companion agents -/

/-- R191 to R195: a firing in a granted cycle toggles `digit_pos`, shows `v div 10` or `v mod 10` by the new position, enables exactly
one digit line and drives the segments of a digit up to 9 by the fixed table; `v` is `rd_temp` in one display variant and the
independent counter in the other; without a firing the bit stays. That the environment picks the cycle is log entry 12. -/
def Obligations.FiringTogglesAndShowsTheDigit : Prop :=
  ∀ s t : State, step s = .next t →
    (s.displayFires = true → t.digitPos ≠ s.digitPos ∧ ∃ f, s.firing = some f ∧ f.pos = t.digitPos ∧
      f.digit = (if t.digitPos = .tens then s.displayedValue / 10 else s.displayedValue % 10) ∧
      f.tensEnabled = decide (t.digitPos = .tens) ∧ f.unitsEnabled = decide (t.digitPos = .units) ∧
      (f.digit ≤ 9 → f.segments = Config.segmentMask f.digit)) ∧
    (s.displayFires = false → t.digitPos = s.digitPos ∧ s.firing = none) ∧
    (s.cfg.display = .reading → s.displayedValue = s.rdTemp.toNat) ∧
    (s.cfg.display = .counter → s.displayedValue = Config.displayCounter s.cycle)

/-- R186, R189, R216, R242: the host stands still in every cycle that the preempting activity owns, a reset cycle among them (log
entry 24); it raises `start` only when `busy = 0` and no sooner than `MIN_INTERVAL` cycles after the last transaction ended; where `start` is 1
in a cycle and 0 in the next, `busy` was 1 in the first. The interval is read off the model's own counter `sinceEnd`, which
`System.sinceEndAfter` keeps (log entry 17); the last clause rests on a host that answers one cycle later (log entry 25). -/
def Obligations.HostKeepsItsHandshake : Prop :=
  ∀ y z : System, y.step = .next z →
    (y.presented.preGnt = true → z.host = y.host ∧ z.reports = y.reports) ∧
    (y.host.start = false → z.host.start = true →
      y.core.phase = .idle ∧ ∀ n, z.sinceEnd = some n → z.agents.minInterval ≤ n) ∧
    (y.host.start = true → z.host.start = false → y.core.phase ≠ .idle)

/-- R185: from the cycle after the host has read the outcome, `start` stays 0 for `SAMPLE_PERIOD` cycles in which the host runs, and
rises at the end of the last of them if it may. Each cycle has its own outputs and time since the last end. That the interval counts
just these cycles is log entry 17. -/
def Obligations.HostWaitsTheSamplePeriod : Prop :=
  ∀ (p : AgentParams) (since : Option Nat) (o : Outputs) (cycles : List (Option Nat × Outputs)) (last : Option Nat × Outputs),
    o.busy = false →
    let h := cycles.foldl (fun h c => h.next p c.1 c.2) (HostPos.await.next p since o)
    (cycles.length < p.samplePeriod → h.start = false) ∧
    (cycles.length + 1 = p.samplePeriod → (h.next p last.1 last.2).start = mayRaise p last.1 last.2)
end

