-- ==== Sys2Proof/Laws/State.lean ====
section
/-! SUPPORT. One lemma per field per named update of State, so that no proof unfolds a record update. -/

namespace Sys2Proof.Machine

/-! ### acquireGuard -/

@[simp] theorem acquireGuard_phase (s : State) : (acquireGuard s).phase = s.phase := rfl
@[simp] theorem acquireGuard_bitIdx (s : State) : (acquireGuard s).bitIdx = s.bitIdx := rfl
@[simp] theorem acquireGuard_frame (s : State) : (acquireGuard s).frame = s.frame := rfl
@[simp] theorem acquireGuard_pollCnt (s : State) : (acquireGuard s).pollCnt = s.pollCnt := rfl
@[simp] theorem acquireGuard_holdCnt (s : State) : (acquireGuard s).holdCnt = s.holdCnt := rfl
@[simp] theorem acquireGuard_tStart (s : State) : (acquireGuard s).tStart = s.tStart := rfl
@[simp] theorem acquireGuard_lineOe (s : State) : (acquireGuard s).lineOe = s.lineOe := rfl
@[simp] theorem acquireGuard_lineOut (s : State) : (acquireGuard s).lineOut = s.lineOut := rfl
@[simp] theorem acquireGuard_guard (s : State) : (acquireGuard s).guard = true := rfl
@[simp] theorem acquireGuard_outcome (s : State) : (acquireGuard s).outcome = s.outcome := rfl
@[simp] theorem acquireGuard_rdHum (s : State) : (acquireGuard s).rdHum = s.rdHum := rfl
@[simp] theorem acquireGuard_rdTemp (s : State) : (acquireGuard s).rdTemp = s.rdTemp := rfl
@[simp] theorem acquireGuard_digitPos (s : State) : (acquireGuard s).digitPos = s.digitPos := rfl
@[simp] theorem acquireGuard_cfg (s : State) : (acquireGuard s).cfg = s.cfg := rfl
@[simp] theorem acquireGuard_stim (s : State) : (acquireGuard s).stim = s.stim := rfl
@[simp] theorem acquireGuard_cycle (s : State) : (acquireGuard s).cycle = s.cycle := rfl

/-! ### releaseGuard -/

@[simp] theorem releaseGuard_phase (s : State) : (releaseGuard s).phase = s.phase := rfl
@[simp] theorem releaseGuard_bitIdx (s : State) : (releaseGuard s).bitIdx = s.bitIdx := rfl
@[simp] theorem releaseGuard_frame (s : State) : (releaseGuard s).frame = s.frame := rfl
@[simp] theorem releaseGuard_pollCnt (s : State) : (releaseGuard s).pollCnt = s.pollCnt := rfl
@[simp] theorem releaseGuard_holdCnt (s : State) : (releaseGuard s).holdCnt = s.holdCnt := rfl
@[simp] theorem releaseGuard_tStart (s : State) : (releaseGuard s).tStart = s.tStart := rfl
@[simp] theorem releaseGuard_lineOe (s : State) : (releaseGuard s).lineOe = s.lineOe := rfl
@[simp] theorem releaseGuard_lineOut (s : State) : (releaseGuard s).lineOut = s.lineOut := rfl
@[simp] theorem releaseGuard_guard (s : State) : (releaseGuard s).guard = false := rfl
@[simp] theorem releaseGuard_outcome (s : State) : (releaseGuard s).outcome = s.outcome := rfl
@[simp] theorem releaseGuard_rdHum (s : State) : (releaseGuard s).rdHum = s.rdHum := rfl
@[simp] theorem releaseGuard_rdTemp (s : State) : (releaseGuard s).rdTemp = s.rdTemp := rfl
@[simp] theorem releaseGuard_digitPos (s : State) : (releaseGuard s).digitPos = s.digitPos := rfl
@[simp] theorem releaseGuard_cfg (s : State) : (releaseGuard s).cfg = s.cfg := rfl
@[simp] theorem releaseGuard_stim (s : State) : (releaseGuard s).stim = s.stim := rfl
@[simp] theorem releaseGuard_cycle (s : State) : (releaseGuard s).cycle = s.cycle := rfl

/-! ### setOutcome -/

@[simp] theorem setOutcome_phase (o : OutcomeTag) (s : State) : (setOutcome o s).phase = s.phase := rfl
@[simp] theorem setOutcome_bitIdx (o : OutcomeTag) (s : State) : (setOutcome o s).bitIdx = s.bitIdx := rfl
@[simp] theorem setOutcome_frame (o : OutcomeTag) (s : State) : (setOutcome o s).frame = s.frame := rfl
@[simp] theorem setOutcome_pollCnt (o : OutcomeTag) (s : State) : (setOutcome o s).pollCnt = s.pollCnt := rfl
@[simp] theorem setOutcome_holdCnt (o : OutcomeTag) (s : State) : (setOutcome o s).holdCnt = s.holdCnt := rfl
@[simp] theorem setOutcome_tStart (o : OutcomeTag) (s : State) : (setOutcome o s).tStart = s.tStart := rfl
@[simp] theorem setOutcome_lineOe (o : OutcomeTag) (s : State) : (setOutcome o s).lineOe = s.lineOe := rfl
@[simp] theorem setOutcome_lineOut (o : OutcomeTag) (s : State) : (setOutcome o s).lineOut = s.lineOut := rfl
@[simp] theorem setOutcome_guard (o : OutcomeTag) (s : State) : (setOutcome o s).guard = s.guard := rfl
@[simp] theorem setOutcome_outcome (o : OutcomeTag) (s : State) : (setOutcome o s).outcome = o := rfl
@[simp] theorem setOutcome_rdHum (o : OutcomeTag) (s : State) : (setOutcome o s).rdHum = s.rdHum := rfl
@[simp] theorem setOutcome_rdTemp (o : OutcomeTag) (s : State) : (setOutcome o s).rdTemp = s.rdTemp := rfl
@[simp] theorem setOutcome_digitPos (o : OutcomeTag) (s : State) : (setOutcome o s).digitPos = s.digitPos := rfl
@[simp] theorem setOutcome_cfg (o : OutcomeTag) (s : State) : (setOutcome o s).cfg = s.cfg := rfl
@[simp] theorem setOutcome_stim (o : OutcomeTag) (s : State) : (setOutcome o s).stim = s.stim := rfl
@[simp] theorem setOutcome_cycle (o : OutcomeTag) (s : State) : (setOutcome o s).cycle = s.cycle := rfl

/-! ### lineToIdle -/

@[simp] theorem lineToIdle_phase (s : State) : (lineToIdle s).phase = s.phase := rfl
@[simp] theorem lineToIdle_bitIdx (s : State) : (lineToIdle s).bitIdx = s.bitIdx := rfl
@[simp] theorem lineToIdle_frame (s : State) : (lineToIdle s).frame = s.frame := rfl
@[simp] theorem lineToIdle_pollCnt (s : State) : (lineToIdle s).pollCnt = s.pollCnt := rfl
@[simp] theorem lineToIdle_holdCnt (s : State) : (lineToIdle s).holdCnt = s.holdCnt := rfl
@[simp] theorem lineToIdle_tStart (s : State) : (lineToIdle s).tStart = s.tStart := rfl
@[simp] theorem lineToIdle_lineOe (s : State) : (lineToIdle s).lineOe = true := rfl
@[simp] theorem lineToIdle_lineOut (s : State) : (lineToIdle s).lineOut = .high := rfl
@[simp] theorem lineToIdle_guard (s : State) : (lineToIdle s).guard = s.guard := rfl
@[simp] theorem lineToIdle_outcome (s : State) : (lineToIdle s).outcome = s.outcome := rfl
@[simp] theorem lineToIdle_rdHum (s : State) : (lineToIdle s).rdHum = s.rdHum := rfl
@[simp] theorem lineToIdle_rdTemp (s : State) : (lineToIdle s).rdTemp = s.rdTemp := rfl
@[simp] theorem lineToIdle_digitPos (s : State) : (lineToIdle s).digitPos = s.digitPos := rfl
@[simp] theorem lineToIdle_cfg (s : State) : (lineToIdle s).cfg = s.cfg := rfl
@[simp] theorem lineToIdle_stim (s : State) : (lineToIdle s).stim = s.stim := rfl
@[simp] theorem lineToIdle_cycle (s : State) : (lineToIdle s).cycle = s.cycle := rfl

/-! ### endTransaction -/

@[simp] theorem endTransaction_phase (o : OutcomeTag) (s : State) : (endTransaction o s).phase = .idle := rfl
@[simp] theorem endTransaction_bitIdx (o : OutcomeTag) (s : State) : (endTransaction o s).bitIdx = s.bitIdx := rfl
@[simp] theorem endTransaction_frame (o : OutcomeTag) (s : State) : (endTransaction o s).frame = s.frame := rfl
@[simp] theorem endTransaction_pollCnt (o : OutcomeTag) (s : State) : (endTransaction o s).pollCnt = s.pollCnt := rfl
@[simp] theorem endTransaction_holdCnt (o : OutcomeTag) (s : State) : (endTransaction o s).holdCnt = s.holdCnt := rfl
@[simp] theorem endTransaction_tStart (o : OutcomeTag) (s : State) : (endTransaction o s).tStart = s.tStart := rfl
@[simp] theorem endTransaction_lineOe (o : OutcomeTag) (s : State) : (endTransaction o s).lineOe = true := rfl
@[simp] theorem endTransaction_lineOut (o : OutcomeTag) (s : State) : (endTransaction o s).lineOut = .high := rfl
@[simp] theorem endTransaction_guard (o : OutcomeTag) (s : State) : (endTransaction o s).guard = s.guard := rfl
@[simp] theorem endTransaction_outcome (o : OutcomeTag) (s : State) : (endTransaction o s).outcome = o := rfl
@[simp] theorem endTransaction_rdHum (o : OutcomeTag) (s : State) : (endTransaction o s).rdHum = s.rdHum := rfl
@[simp] theorem endTransaction_rdTemp (o : OutcomeTag) (s : State) : (endTransaction o s).rdTemp = s.rdTemp := rfl
@[simp] theorem endTransaction_digitPos (o : OutcomeTag) (s : State) : (endTransaction o s).digitPos = s.digitPos := rfl
@[simp] theorem endTransaction_cfg (o : OutcomeTag) (s : State) : (endTransaction o s).cfg = s.cfg := rfl
@[simp] theorem endTransaction_stim (o : OutcomeTag) (s : State) : (endTransaction o s).stim = s.stim := rfl
@[simp] theorem endTransaction_cycle (o : OutcomeTag) (s : State) : (endTransaction o s).cycle = s.cycle := rfl

/-! ### raiseTimeout -/

@[simp] theorem raiseTimeout_phase (s : State) : (raiseTimeout s).phase = .idle := rfl
@[simp] theorem raiseTimeout_bitIdx (s : State) : (raiseTimeout s).bitIdx = s.bitIdx := rfl
@[simp] theorem raiseTimeout_frame (s : State) : (raiseTimeout s).frame = s.frame := rfl
@[simp] theorem raiseTimeout_pollCnt (s : State) : (raiseTimeout s).pollCnt = s.pollCnt := rfl
@[simp] theorem raiseTimeout_holdCnt (s : State) : (raiseTimeout s).holdCnt = s.holdCnt := rfl
@[simp] theorem raiseTimeout_tStart (s : State) : (raiseTimeout s).tStart = s.tStart := rfl
@[simp] theorem raiseTimeout_lineOe (s : State) : (raiseTimeout s).lineOe = true := rfl
@[simp] theorem raiseTimeout_lineOut (s : State) : (raiseTimeout s).lineOut = .high := rfl
@[simp] theorem raiseTimeout_guard (s : State) : (raiseTimeout s).guard = false := rfl
@[simp] theorem raiseTimeout_outcome (s : State) : (raiseTimeout s).outcome = .timeout := rfl
@[simp] theorem raiseTimeout_rdHum (s : State) : (raiseTimeout s).rdHum = s.rdHum := rfl
@[simp] theorem raiseTimeout_rdTemp (s : State) : (raiseTimeout s).rdTemp = s.rdTemp := rfl
@[simp] theorem raiseTimeout_digitPos (s : State) : (raiseTimeout s).digitPos = s.digitPos := rfl
@[simp] theorem raiseTimeout_cfg (s : State) : (raiseTimeout s).cfg = s.cfg := rfl
@[simp] theorem raiseTimeout_stim (s : State) : (raiseTimeout s).stim = s.stim := rfl
@[simp] theorem raiseTimeout_cycle (s : State) : (raiseTimeout s).cycle = s.cycle := rfl

/-! ### raiseChecksum -/

@[simp] theorem raiseChecksum_phase (s : State) : (raiseChecksum s).phase = .idle := rfl
@[simp] theorem raiseChecksum_bitIdx (s : State) : (raiseChecksum s).bitIdx = s.bitIdx := rfl
@[simp] theorem raiseChecksum_frame (s : State) : (raiseChecksum s).frame = s.frame := rfl
@[simp] theorem raiseChecksum_pollCnt (s : State) : (raiseChecksum s).pollCnt = s.pollCnt := rfl
@[simp] theorem raiseChecksum_holdCnt (s : State) : (raiseChecksum s).holdCnt = s.holdCnt := rfl
@[simp] theorem raiseChecksum_tStart (s : State) : (raiseChecksum s).tStart = s.tStart := rfl
@[simp] theorem raiseChecksum_lineOe (s : State) : (raiseChecksum s).lineOe = true := rfl
@[simp] theorem raiseChecksum_lineOut (s : State) : (raiseChecksum s).lineOut = .high := rfl
@[simp] theorem raiseChecksum_guard (s : State) : (raiseChecksum s).guard = s.guard := rfl
@[simp] theorem raiseChecksum_outcome (s : State) : (raiseChecksum s).outcome = .checksum := rfl
@[simp] theorem raiseChecksum_rdHum (s : State) : (raiseChecksum s).rdHum = s.rdHum := rfl
@[simp] theorem raiseChecksum_rdTemp (s : State) : (raiseChecksum s).rdTemp = s.rdTemp := rfl
@[simp] theorem raiseChecksum_digitPos (s : State) : (raiseChecksum s).digitPos = s.digitPos := rfl
@[simp] theorem raiseChecksum_cfg (s : State) : (raiseChecksum s).cfg = s.cfg := rfl
@[simp] theorem raiseChecksum_stim (s : State) : (raiseChecksum s).stim = s.stim := rfl
@[simp] theorem raiseChecksum_cycle (s : State) : (raiseChecksum s).cycle = s.cycle := rfl

/-! ### raiseSuccess -/

@[simp] theorem raiseSuccess_phase (s : State) : (raiseSuccess s).phase = .idle := rfl
@[simp] theorem raiseSuccess_bitIdx (s : State) : (raiseSuccess s).bitIdx = s.bitIdx := rfl
@[simp] theorem raiseSuccess_frame (s : State) : (raiseSuccess s).frame = s.frame := rfl
@[simp] theorem raiseSuccess_pollCnt (s : State) : (raiseSuccess s).pollCnt = s.pollCnt := rfl
@[simp] theorem raiseSuccess_holdCnt (s : State) : (raiseSuccess s).holdCnt = s.holdCnt := rfl
@[simp] theorem raiseSuccess_tStart (s : State) : (raiseSuccess s).tStart = s.tStart := rfl
@[simp] theorem raiseSuccess_lineOe (s : State) : (raiseSuccess s).lineOe = true := rfl
@[simp] theorem raiseSuccess_lineOut (s : State) : (raiseSuccess s).lineOut = .high := rfl
@[simp] theorem raiseSuccess_guard (s : State) : (raiseSuccess s).guard = s.guard := rfl
@[simp] theorem raiseSuccess_outcome (s : State) : (raiseSuccess s).outcome = .success := rfl
@[simp] theorem raiseSuccess_rdHum (s : State) : (raiseSuccess s).rdHum = s.frame.b0 := rfl
@[simp] theorem raiseSuccess_rdTemp (s : State) : (raiseSuccess s).rdTemp = s.frame.b2 := rfl
@[simp] theorem raiseSuccess_digitPos (s : State) : (raiseSuccess s).digitPos = s.digitPos := rfl
@[simp] theorem raiseSuccess_cfg (s : State) : (raiseSuccess s).cfg = s.cfg := rfl
@[simp] theorem raiseSuccess_stim (s : State) : (raiseSuccess s).stim = s.stim := rfl
@[simp] theorem raiseSuccess_cycle (s : State) : (raiseSuccess s).cycle = s.cycle := rfl

/-! ### goto -/

@[simp] theorem goto_phase (p : Phase) (s : State) : (goto p s).phase = p := rfl
@[simp] theorem goto_bitIdx (p : Phase) (s : State) : (goto p s).bitIdx = s.bitIdx := rfl
@[simp] theorem goto_frame (p : Phase) (s : State) : (goto p s).frame = s.frame := rfl
@[simp] theorem goto_pollCnt (p : Phase) (s : State) : (goto p s).pollCnt = s.pollCnt := rfl
@[simp] theorem goto_holdCnt (p : Phase) (s : State) : (goto p s).holdCnt = s.holdCnt := rfl
@[simp] theorem goto_tStart (p : Phase) (s : State) : (goto p s).tStart = s.tStart := rfl
@[simp] theorem goto_lineOe (p : Phase) (s : State) : (goto p s).lineOe = s.lineOe := rfl
@[simp] theorem goto_lineOut (p : Phase) (s : State) : (goto p s).lineOut = s.lineOut := rfl
@[simp] theorem goto_guard (p : Phase) (s : State) : (goto p s).guard = s.guard := rfl
@[simp] theorem goto_outcome (p : Phase) (s : State) : (goto p s).outcome = s.outcome := rfl
@[simp] theorem goto_rdHum (p : Phase) (s : State) : (goto p s).rdHum = s.rdHum := rfl
@[simp] theorem goto_rdTemp (p : Phase) (s : State) : (goto p s).rdTemp = s.rdTemp := rfl
@[simp] theorem goto_digitPos (p : Phase) (s : State) : (goto p s).digitPos = s.digitPos := rfl
@[simp] theorem goto_cfg (p : Phase) (s : State) : (goto p s).cfg = s.cfg := rfl
@[simp] theorem goto_stim (p : Phase) (s : State) : (goto p s).stim = s.stim := rfl
@[simp] theorem goto_cycle (p : Phase) (s : State) : (goto p s).cycle = s.cycle := rfl

/-! ### beginTransaction -/

@[simp] theorem beginTransaction_phase (s : State) : (beginTransaction s).phase = .reqLow := rfl
@[simp] theorem beginTransaction_bitIdx (s : State) : (beginTransaction s).bitIdx = 0#6 := rfl
@[simp] theorem beginTransaction_frame (s : State) : (beginTransaction s).frame = Frame.zero := rfl
@[simp] theorem beginTransaction_pollCnt (s : State) : (beginTransaction s).pollCnt = 0 := rfl
@[simp] theorem beginTransaction_holdCnt (s : State) : (beginTransaction s).holdCnt = 0 := rfl
@[simp] theorem beginTransaction_tStart (s : State) : (beginTransaction s).tStart = s.tStart := rfl
@[simp] theorem beginTransaction_lineOe (s : State) : (beginTransaction s).lineOe = true := rfl
@[simp] theorem beginTransaction_lineOut (s : State) : (beginTransaction s).lineOut = .low := rfl
@[simp] theorem beginTransaction_guard (s : State) : (beginTransaction s).guard = s.guard := rfl
@[simp] theorem beginTransaction_outcome (s : State) : (beginTransaction s).outcome = .none := rfl
@[simp] theorem beginTransaction_rdHum (s : State) : (beginTransaction s).rdHum = s.rdHum := rfl
@[simp] theorem beginTransaction_rdTemp (s : State) : (beginTransaction s).rdTemp = s.rdTemp := rfl
@[simp] theorem beginTransaction_digitPos (s : State) : (beginTransaction s).digitPos = s.digitPos := rfl
@[simp] theorem beginTransaction_cfg (s : State) : (beginTransaction s).cfg = s.cfg := rfl
@[simp] theorem beginTransaction_stim (s : State) : (beginTransaction s).stim = s.stim := rfl
@[simp] theorem beginTransaction_cycle (s : State) : (beginTransaction s).cycle = s.cycle := rfl

/-! ### releaseLine -/

@[simp] theorem releaseLine_phase (s : State) : (releaseLine s).phase = .hs1 := rfl
@[simp] theorem releaseLine_bitIdx (s : State) : (releaseLine s).bitIdx = s.bitIdx := rfl
@[simp] theorem releaseLine_frame (s : State) : (releaseLine s).frame = s.frame := rfl
@[simp] theorem releaseLine_pollCnt (s : State) : (releaseLine s).pollCnt = 0 := rfl
@[simp] theorem releaseLine_holdCnt (s : State) : (releaseLine s).holdCnt = s.holdCnt := rfl
@[simp] theorem releaseLine_tStart (s : State) : (releaseLine s).tStart = s.tStart := rfl
@[simp] theorem releaseLine_lineOe (s : State) : (releaseLine s).lineOe = false := rfl
@[simp] theorem releaseLine_lineOut (s : State) : (releaseLine s).lineOut = s.lineOut := rfl
@[simp] theorem releaseLine_guard (s : State) : (releaseLine s).guard = s.guard := rfl
@[simp] theorem releaseLine_outcome (s : State) : (releaseLine s).outcome = s.outcome := rfl
@[simp] theorem releaseLine_rdHum (s : State) : (releaseLine s).rdHum = s.rdHum := rfl
@[simp] theorem releaseLine_rdTemp (s : State) : (releaseLine s).rdTemp = s.rdTemp := rfl
@[simp] theorem releaseLine_digitPos (s : State) : (releaseLine s).digitPos = s.digitPos := rfl
@[simp] theorem releaseLine_cfg (s : State) : (releaseLine s).cfg = s.cfg := rfl
@[simp] theorem releaseLine_stim (s : State) : (releaseLine s).stim = s.stim := rfl
@[simp] theorem releaseLine_cycle (s : State) : (releaseLine s).cycle = s.cycle := rfl

/-! ### enterCapture -/

@[simp] theorem enterCapture_phase (s : State) : (enterCapture s).phase = .bitLo := rfl
@[simp] theorem enterCapture_bitIdx (s : State) : (enterCapture s).bitIdx = 0#6 := rfl
@[simp] theorem enterCapture_frame (s : State) : (enterCapture s).frame = s.frame := rfl
@[simp] theorem enterCapture_pollCnt (s : State) : (enterCapture s).pollCnt = s.pollCnt := rfl
@[simp] theorem enterCapture_holdCnt (s : State) : (enterCapture s).holdCnt = s.holdCnt := rfl
@[simp] theorem enterCapture_tStart (s : State) : (enterCapture s).tStart = s.tStart := rfl
@[simp] theorem enterCapture_lineOe (s : State) : (enterCapture s).lineOe = s.lineOe := rfl
@[simp] theorem enterCapture_lineOut (s : State) : (enterCapture s).lineOut = s.lineOut := rfl
@[simp] theorem enterCapture_guard (s : State) : (enterCapture s).guard = true := rfl
@[simp] theorem enterCapture_outcome (s : State) : (enterCapture s).outcome = s.outcome := rfl
@[simp] theorem enterCapture_rdHum (s : State) : (enterCapture s).rdHum = s.rdHum := rfl
@[simp] theorem enterCapture_rdTemp (s : State) : (enterCapture s).rdTemp = s.rdTemp := rfl
@[simp] theorem enterCapture_digitPos (s : State) : (enterCapture s).digitPos = s.digitPos := rfl
@[simp] theorem enterCapture_cfg (s : State) : (enterCapture s).cfg = s.cfg := rfl
@[simp] theorem enterCapture_stim (s : State) : (enterCapture s).stim = s.stim := rfl
@[simp] theorem enterCapture_cycle (s : State) : (enterCapture s).cycle = s.cycle := rfl

/-! ### stampStart -/

@[simp] theorem stampStart_phase (s : State) : (stampStart s).phase = .bitHi := rfl
@[simp] theorem stampStart_bitIdx (s : State) : (stampStart s).bitIdx = s.bitIdx := rfl
@[simp] theorem stampStart_frame (s : State) : (stampStart s).frame = s.frame := rfl
@[simp] theorem stampStart_pollCnt (s : State) : (stampStart s).pollCnt = s.pollCnt := rfl
@[simp] theorem stampStart_holdCnt (s : State) : (stampStart s).holdCnt = s.holdCnt := rfl
@[simp] theorem stampStart_tStart (s : State) : (stampStart s).tStart = s.tickSample.toNat := rfl
@[simp] theorem stampStart_lineOe (s : State) : (stampStart s).lineOe = s.lineOe := rfl
@[simp] theorem stampStart_lineOut (s : State) : (stampStart s).lineOut = s.lineOut := rfl
@[simp] theorem stampStart_guard (s : State) : (stampStart s).guard = s.guard := rfl
@[simp] theorem stampStart_outcome (s : State) : (stampStart s).outcome = s.outcome := rfl
@[simp] theorem stampStart_rdHum (s : State) : (stampStart s).rdHum = s.rdHum := rfl
@[simp] theorem stampStart_rdTemp (s : State) : (stampStart s).rdTemp = s.rdTemp := rfl
@[simp] theorem stampStart_digitPos (s : State) : (stampStart s).digitPos = s.digitPos := rfl
@[simp] theorem stampStart_cfg (s : State) : (stampStart s).cfg = s.cfg := rfl
@[simp] theorem stampStart_stim (s : State) : (stampStart s).stim = s.stim := rfl
@[simp] theorem stampStart_cycle (s : State) : (stampStart s).cycle = s.cycle := rfl

/-! ### resetRegisters -/

@[simp] theorem resetRegisters_phase (s : State) : (resetRegisters s).phase = .idle := rfl
@[simp] theorem resetRegisters_bitIdx (s : State) : (resetRegisters s).bitIdx = 0#6 := rfl
@[simp] theorem resetRegisters_frame (s : State) : (resetRegisters s).frame = Frame.zero := rfl
@[simp] theorem resetRegisters_pollCnt (s : State) : (resetRegisters s).pollCnt = 0 := rfl
@[simp] theorem resetRegisters_holdCnt (s : State) : (resetRegisters s).holdCnt = 0 := rfl
@[simp] theorem resetRegisters_tStart (s : State) : (resetRegisters s).tStart = 0 := rfl
@[simp] theorem resetRegisters_lineOe (s : State) : (resetRegisters s).lineOe = true := rfl
@[simp] theorem resetRegisters_lineOut (s : State) : (resetRegisters s).lineOut = .high := rfl
@[simp] theorem resetRegisters_guard (s : State) : (resetRegisters s).guard = false := rfl
@[simp] theorem resetRegisters_outcome (s : State) : (resetRegisters s).outcome = .none := rfl
@[simp] theorem resetRegisters_rdHum (s : State) : (resetRegisters s).rdHum = 0#8 := rfl
@[simp] theorem resetRegisters_rdTemp (s : State) : (resetRegisters s).rdTemp = 0#8 := rfl
@[simp] theorem resetRegisters_digitPos (s : State) : (resetRegisters s).digitPos = s.digitPos := rfl
@[simp] theorem resetRegisters_cfg (s : State) : (resetRegisters s).cfg = s.cfg := rfl
@[simp] theorem resetRegisters_stim (s : State) : (resetRegisters s).stim = s.stim := rfl
@[simp] theorem resetRegisters_cycle (s : State) : (resetRegisters s).cycle = s.cycle := rfl

/-! ### closeEdge -/

@[simp] theorem closeEdge_phase (s t : State) : (closeEdge s t).phase = t.phase := rfl
@[simp] theorem closeEdge_bitIdx (s t : State) : (closeEdge s t).bitIdx = t.bitIdx := rfl
@[simp] theorem closeEdge_frame (s t : State) : (closeEdge s t).frame = t.frame := rfl
@[simp] theorem closeEdge_pollCnt (s t : State) : (closeEdge s t).pollCnt = t.pollCnt := rfl
@[simp] theorem closeEdge_holdCnt (s t : State) : (closeEdge s t).holdCnt = t.holdCnt := rfl
@[simp] theorem closeEdge_tStart (s t : State) : (closeEdge s t).tStart = t.tStart := rfl
@[simp] theorem closeEdge_lineOe (s t : State) : (closeEdge s t).lineOe = t.lineOe := rfl
@[simp] theorem closeEdge_lineOut (s t : State) : (closeEdge s t).lineOut = t.lineOut := rfl
@[simp] theorem closeEdge_guard (s t : State) : (closeEdge s t).guard = t.guard := rfl
@[simp] theorem closeEdge_outcome (s t : State) : (closeEdge s t).outcome = t.outcome := rfl
@[simp] theorem closeEdge_rdHum (s t : State) : (closeEdge s t).rdHum = t.rdHum := rfl
@[simp] theorem closeEdge_rdTemp (s t : State) : (closeEdge s t).rdTemp = t.rdTemp := rfl
@[simp] theorem closeEdge_digitPos (s t : State) : (closeEdge s t).digitPos = s.digitAfter := rfl
@[simp] theorem closeEdge_cfg (s t : State) : (closeEdge s t).cfg = t.cfg := rfl
@[simp] theorem closeEdge_stim (s t : State) : (closeEdge s t).stim = s.stim.tail := rfl
@[simp] theorem closeEdge_cycle (s t : State) : (closeEdge s t).cycle = s.cycle + 1 := rfl

end Sys2Proof.Machine
end

