-- ==== Sys2Proof/Laws/Ops.lean ====
section
/-! SUPPORT. One lemma for each shared operation that says everything it can do, and the inversion lemma of `step`. -/

namespace Sys2Proof.Machine

/-! ### Inputs -/

@[simp] theorem inputs_cons (s : State) (i : Inputs) (rest : List Inputs) (h : s.stim = i :: rest) : s.inputs = i := by
  simp [State.inputs, h]

/-- What the inputs are depends on the stimulus list and the edge number alone. -/
theorem inputs_congr {s t : State} (h : s.stim = t.stim) (hc : s.cycle = t.cycle) : s.inputs = t.inputs := by
  simp [State.inputs, h, hc]

/-! ### Decoding the phase -/

@[simp] theorem fetched_idle {s : State} (h : s.phase = .idle) : s.fetched = .idle := by rw [State.fetched, h]; rfl
@[simp] theorem fetched_reqLow {s : State} (h : s.phase = .reqLow) : s.fetched = .reqLow := by rw [State.fetched, h]; rfl
@[simp] theorem fetched_hs1 {s : State} (h : s.phase = .hs1) : s.fetched = .hs1 := by rw [State.fetched, h]; rfl
@[simp] theorem fetched_hs2 {s : State} (h : s.phase = .hs2) : s.fetched = .hs2 := by rw [State.fetched, h]; rfl
@[simp] theorem fetched_hs3 {s : State} (h : s.phase = .hs3) : s.fetched = .hs3 := by rw [State.fetched, h]; rfl
@[simp] theorem fetched_bitLo {s : State} (h : s.phase = .bitLo) : s.fetched = .bitLo := by rw [State.fetched, h]; rfl
@[simp] theorem fetched_bitHi {s : State} (h : s.phase = .bitHi) : s.fetched = .bitHi := by rw [State.fetched, h]; rfl
@[simp] theorem fetched_check {s : State} (h : s.phase = .check) : s.fetched = .check := by rw [State.fetched, h]; rfl

/-! ### The poll -/

theorem poll_ok_iff (l : Level) (s : State) : poll l s = .ok ↔ s.lineSample ≠ l := by
  unfold poll
  by_cases h : s.lineSample = l <;> by_cases hb : s.pollCnt + 1 = s.cfg.pollBudget <;> simp [h, hb]

theorem poll_timeout_iff (l : Level) (s : State) :
    poll l s = .timeout ↔ s.lineSample = l ∧ s.pollCnt + 1 = s.cfg.pollBudget := by
  unfold poll
  by_cases h : s.lineSample = l <;> by_cases hb : s.pollCnt + 1 = s.cfg.pollBudget <;> simp [h, hb]

theorem poll_again_iff (l : Level) (s : State) :
    poll l s = .again ↔ s.lineSample = l ∧ s.pollCnt + 1 ≠ s.cfg.pollBudget := by
  unfold poll
  by_cases h : s.lineSample = l <;> by_cases hb : s.pollCnt + 1 = s.cfg.pollBudget <;> simp [h, hb]

/-- Everything one poll of a wait can do (R110 to R113). -/
theorem awaitLeave_cases (l : Level) (onOk : State → State) (s : State) :
    (s.lineSample ≠ l ∧ awaitLeave l onOk s = onOk { s with pollCnt := 0 }) ∨
    (s.lineSample = l ∧ s.pollCnt + 1 = s.cfg.pollBudget ∧ awaitLeave l onOk s = raiseTimeout s) ∨
    (s.lineSample = l ∧ s.pollCnt + 1 ≠ s.cfg.pollBudget ∧
      awaitLeave l onOk s = { s with pollCnt := countUp s.cfg s.pollCnt }) := by
  cases h : poll l s
  · exact .inl ⟨(poll_ok_iff l s).1 h, by simp [awaitLeave, h]⟩
  · obtain ⟨h1, h2⟩ := (poll_timeout_iff l s).1 h
    exact .inr (.inl ⟨h1, h2, by simp [awaitLeave, h]⟩)
  · obtain ⟨h1, h2⟩ := (poll_again_iff l s).1 h
    exact .inr (.inr ⟨h1, h2, by simp [awaitLeave, h]⟩)

/-- A counter below a bound that fits `CNT_W` bits does not wrap (R17). -/
theorem countUp_of_lt {p : Params} {n b : Nat} (hn : n < b) (hb : b < 2 ^ p.cntW) : countUp p n = n + 1 :=
  Nat.mod_eq_of_lt (by omega)

/-! ### The capture loop -/

/-- Everything the end of an iteration can do (R147). -/
theorem advanceBit_cases (s : State) :
    (s.bitIdx = 39#6 ∧ advanceBit s = { s with guard := false, phase := .check }) ∨
    (s.bitIdx ≠ 39#6 ∧ advanceBit s = { s with bitIdx := s.bitIdx + 1#6, phase := .bitLo }) := by
  by_cases h : s.bitIdx = 39#6
  · exact .inl ⟨h, by simp [advanceBit, h, releaseGuard]⟩
  · exact .inr ⟨h, by simp [advanceBit, h]⟩

/-- Everything the capture of a bit can do (R146, R147). -/
theorem captureBit_cases (b : Bool) (s : State) :
    (s.bitIdx = 39#6 ∧ captureBit b s =
      { s with frame := storeBit s.frame s.bitIdx.toNat b, pollCnt := 0, guard := false, phase := .check }) ∨
    (s.bitIdx ≠ 39#6 ∧ captureBit b s =
      { s with frame := storeBit s.frame s.bitIdx.toNat b, pollCnt := 0, bitIdx := s.bitIdx + 1#6, phase := .bitLo }) :=
  advanceBit_cases { s with frame := storeBit s.frame s.bitIdx.toNat b, pollCnt := 0 }

/-! ### The result -/

/-- Everything the judgement of a frame can do (R160 to R163). -/
theorem judgeFrame_cases (s : State) :
    (frameValid s.frame = true ∧ judgeFrame s = raiseSuccess s) ∨
    (frameValid s.frame = false ∧ judgeFrame s = raiseChecksum s) := by
  cases h : frameValid s.frame
  · exact .inr ⟨rfl, by simp [judgeFrame, h]⟩
  · exact .inl ⟨rfl, by simp [judgeFrame, h]⟩

/-! ### The edge -/

/-- Without a reset and without a freeze, nothing is granted and no firing acts (R174). -/
theorem digitAfter_enabled {s : State} (hr : s.inputs.rst = false) (hf : s.frozen = false) : s.digitAfter = s.digitPos := by
  have : s.preGnt = false := by simpa [State.frozen, hr] using hf
  simp [State.digitAfter, State.displayFires, this]

theorem step_reset {s : State} (h : s.inputs.rst = true) : step s = .next (closeEdge s (resetRegisters s)) := by
  simp [step, h]

theorem step_frozen {s : State} (h : s.frozen = true) : step s = .next (closeEdge s s) := by
  have hr : s.inputs.rst = false := by
    have := h; simp only [State.frozen, Bool.and_eq_true, Bool.not_eq_true'] at this; exact this.1
  simp [step, h, hr]

theorem step_enabled {s t : State} (hr : s.inputs.rst = false) (hf : s.frozen = false) (h : exec s.fetched s = .next t) :
    step s = .next (closeEdge s t) := by
  simp [step, hr, hf, h]

/-- Everything a step can do (R180): a reset, a freeze, or the operation of the phase. -/
theorem step_cases {s t : State} (h : step s = .next t) :
    (s.inputs.rst = true ∧ t = closeEdge s (resetRegisters s)) ∨
    (s.inputs.rst = false ∧ s.frozen = true ∧ t = closeEdge s s) ∨
    (s.inputs.rst = false ∧ s.frozen = false ∧ ∃ u, exec s.fetched s = .next u ∧ t = closeEdge s u) := by
  cases hr : s.inputs.rst
  · cases hf : s.frozen
    · refine .inr (.inr ⟨rfl, rfl, ?_⟩)
      cases he : exec s.fetched s with
      | next u =>
        rw [step_enabled hr hf he] at h
        exact ⟨u, rfl, (Host.Outcome.next.inj h).symm⟩
      | fault r => exact nomatch r
      | refused r => simp [step, hr, hf, he] at h
    · rw [step_frozen hf] at h
      exact .inr (.inl ⟨rfl, rfl, (Host.Outcome.next.inj h).symm⟩)
  · rw [step_reset hr] at h
    exact .inl ⟨rfl, (Host.Outcome.next.inj h).symm⟩

/-- The operation of a phase, as one function of the state: what `exec` answers for what is fetched (R83). -/
def phaseOp (s : State) : State :=
  match s.phase with
  | .idle => if s.cmdCode = 0b1#1 then beginTransaction s else s
  | .reqLow => if s.holdCnt + 1 = s.cfg.holdCycles then releaseLine s else { s with holdCnt := countUp s.cfg s.holdCnt }
  | .hs1 => awaitLeave .high (goto .hs2) s
  | .hs2 => awaitLeave .low (goto .hs3) s
  | .hs3 => awaitLeave .high enterCapture s
  | .bitLo => awaitLeave .low stampStart s
  | .bitHi => awaitLeave .high (captureBit s.measuredBit) s
  | .check => judgeFrame s

theorem exec_fetched (s : State) : exec s.fetched s = .next (phaseOp s) := by
  cases h : s.phase <;>
    simp [h, exec, phaseOp, execIdle, execReqLow, execHs1, execHs2, execHs3, execBitLo, execBitHi, execCheck, waitLevel]

end Sys2Proof.Machine
end

