-- ==== Sys2Proof/Laws/Runs.lean ====
section
/-! SUPPORT. The small lemmas of runs and of what a list of inputs asks for. -/

namespace Sys2Proof.Machine

/-! ### Runs -/

@[simp] theorem runEdges_zero (s : State) : runEdges 0 s = .next s := rfl

theorem runEdges_succ {s t : State} (h : step s = .next t) (k : Nat) : runEdges (k + 1) s = runEdges k t := by
  simp [runEdges, h]

/-- Every state has a next one (R181). -/
theorem step_total (s : State) : ∃ t, step s = .next t := by
  by_cases hr : s.inputs.rst = true
  · exact ⟨_, step_reset hr⟩
  · by_cases hf : s.frozen = true
    · exact ⟨_, step_frozen hf⟩
    · exact ⟨_, step_enabled (by simpa using hr) (by simpa using hf) (exec_fetched s)⟩

theorem runEdges_add {j : Nat} {s t : State} (h : runEdges j s = .next t) (k : Nat) :
    runEdges (j + k) s = runEdges k t := by
  induction j generalizing s with
  | zero => rw [runEdges_zero, Host.Outcome.next.injEq] at h; rw [h, Nat.zero_add]
  | succ j ih =>
    obtain ⟨u, hu⟩ := step_total s
    rw [runEdges_succ hu] at h
    rw [show j + 1 + k = (j + k) + 1 by omega, runEdges_succ hu]
    exact ih h

/-! ### Requests -/

@[simp] theorem enabledIn_nil (p : Params) : enabledIn p [] = 0 := rfl

@[simp] theorem enabledIn_cons (p : Params) (x : Inputs) (xs : List Inputs) :
    enabledIn p (x :: xs) = (if taken p x then 0 else 1) + enabledIn p xs := by
  cases h : taken p x <;> simp [enabledIn, h, Nat.add_comm]

@[simp] theorem enabledIn_append (p : Params) (xs ys : List Inputs) :
    enabledIn p (xs ++ ys) = enabledIn p xs + enabledIn p ys := by
  simp [enabledIn]

theorem enabledIn_le_length (p : Params) (xs : List Inputs) : enabledIn p xs ≤ xs.length := List.length_filter_le _ _

/-- A cycle without a reset is frozen when it is taken and the guard is down (R173). -/
theorem frozen_eq_taken {s : State} {x : Inputs} {rest : List Inputs} (h : s.stim = x :: rest) (hr : x.rst = false) :
    s.frozen = (taken s.cfg x && !s.guard) := by
  simp [State.frozen, State.preGnt, State.preReq, taken, inputs_cons s x rest h, hr]

end Sys2Proof.Machine
end

