-- ==== Sys2Proof/Laws/Agents.lean ====
section
/-! SUPPORT. What one cycle of the host can do, the tick timer's law, what the line shows, and the inversion lemma of the closed loop's step. -/

namespace Sys2Proof.Machine

theorem mayRaise_eq_true_iff (p : AgentParams) (since : Option Nat) (o : Outputs) :
    mayRaise p since o = true ↔ o.busy = false ∧ ∀ n, since = some n → p.minInterval ≤ n + 1 := by
  cases since <;> simp [mayRaise, intervalPassed]

theorem presented_busy (y : System) : y.presented.outputs.busy = decide (y.core.phase ≠ .idle) := rfl

/-- Where the host raises `start`, it was free to (R186, R242). -/
theorem HostPos.next_raises {p : AgentParams} {since : Option Nat} {o : Outputs} {h : HostPos} (h0 : h.start = false)
    (h1 : (h.next p since o).start = true) : mayRaise p since o = true := by
  cases hm : mayRaise p since o with
  | true => rfl
  | false =>
    cases h with
    | request => simp [HostPos.start] at h0
    | await => cases hb : o.busy <;> simp [HostPos.next, hb, HostPos.start] at h1
    | sleep n =>
      match n with
      | 0 | 1 => simp [HostPos.next, hm, HostPos.start] at h1
      | n + 2 => simp [HostPos.next, HostPos.start] at h1

/-- The host lowers `start` only when it sees `busy = 1` (R185, R98). -/
theorem HostPos.next_lowers {p : AgentParams} {since : Option Nat} {o : Outputs} {h : HostPos} (h0 : h.start = true)
    (h1 : (h.next p since o).start = false) : o.busy = true := by
  cases h with
  | sleep n => simp [HostPos.start] at h0
  | await => simp [HostPos.start] at h0
  | request => cases hb : o.busy <;> simp [HostPos.next, hb, HostPos.start] at h1 ⊢

/-! ### The tick timer obeys R214, and nothing more -/

theorem TickTimer.elapsed_succ (k : TickTimer) (n : Nat) : k.elapsed (n + 1) = k.elapsed n + (k.gaps[n]?).getD k.period := by
  unfold TickTimer.elapsed
  rw [List.take_add_one, List.sum_append]
  cases h : k.gaps[n]? with
  | none =>
    have hn : k.gaps.length ≤ n := List.getElem?_eq_none_iff.mp h
    rw [show n + 1 - k.gaps.length = n - k.gaps.length + 1 by omega, Nat.add_mul]
    simp; omega
  | some g =>
    have hn : n < k.gaps.length := (List.getElem?_eq_some_iff.mp h).1
    rw [show n + 1 - k.gaps.length = 0 by omega, show n - k.gaps.length = 0 by omega]
    simp

theorem TickTimer.elapsed_mono (k : TickTimer) {n m : Nat} (h : n ≤ m) : k.elapsed n ≤ k.elapsed m :=
  monotone_nat_of_le_succ (fun i => by rw [k.elapsed_succ]; omega) h

/-- Between any two edges the true counter advances by a non-negative number of ticks (R214). -/
theorem TickTimer.count_mono (p : Params) (k : TickTimer) {n m : Nat} (h : n ≤ m) : k.count p n ≤ k.count p m :=
  Nat.add_le_add_left (Nat.div_le_div_right (Nat.mul_le_mul_right _ (Nat.add_le_add_left (k.elapsed_mono h) _))) _

/-- The rate of R214: what the counter advances between two edges, as a time, is within one tick of the time between them. -/
theorem TickTimer.count_rate (p : Params) (k : TickTimer) (hu : 0 < k.unitsPerUs) (hp : 0 < p.tickNum) {n m : Nat} (h : n ≤ m) :
    (k.count p m - k.count p n) * (k.unitsPerUs * p.tickNum) < (k.elapsed m - k.elapsed n) * p.tickDen + k.unitsPerUs * p.tickNum ∧
    (k.elapsed m - k.elapsed n) * p.tickDen < (k.count p m - k.count p n + 1) * (k.unitsPerUs * p.tickNum) := by
  have hq : 0 < k.unitsPerUs * p.tickNum := Nat.mul_pos hu hp
  obtain ⟨d, hd⟩ := Nat.exists_eq_add_of_le (k.elapsed_mono h)
  have hc := k.count_mono p h
  simp only [TickTimer.count, hd] at hc ⊢
  generalize k.unitsPerUs * p.tickNum = q at *
  rw [show (k.sinceTick + (k.elapsed n + d)) * p.tickDen = (k.sinceTick + k.elapsed n) * p.tickDen + d * p.tickDen by ring] at *
  rw [show k.elapsed n + d - k.elapsed n = d by omega]
  generalize (k.sinceTick + k.elapsed n) * p.tickDen = a at *
  generalize d * p.tickDen = b at *
  obtain ⟨e, he⟩ := Nat.exists_eq_add_of_le (Nat.add_le_add_iff_left.mp hc)
  rw [he, show k.count0 + (a / q + e) - (k.count0 + a / q) = e by omega]
  have h1 := Nat.div_add_mod a q
  have h2 := Nat.div_add_mod (a + b) q
  have h3 := Nat.mod_lt a hq
  have h4 := Nat.mod_lt (a + b) hq
  rw [he, Nat.mul_add] at h2
  rw [Nat.add_mul, Nat.mul_comm e q]
  constructor <;> omega

/-- No other constraint (R19): whatever the advances from edge to edge are, some timer makes just these. -/
theorem TickTimer.every_advance (p : Params) (hn : 0 < p.tickNum) (hd : 0 < p.tickDen) (t : Nat) (advances : List Nat) :
    ∃ k : TickTimer, 0 < k.unitsPerUs ∧ ∀ n ≤ advances.length, k.count p n = t + (advances.take n).sum := by
  refine ⟨⟨t, 0, p.tickDen, advances.map (· * p.tickNum), p.tickNum⟩, hd, fun n h => ?_⟩
  have hs : ∀ l : List Nat, (l.map (· * p.tickNum)).sum = l.sum * p.tickNum := fun l => by
    induction l with
    | nil => simp
    | cons a l ih => simp [ih, Nat.add_mul]
  simp only [TickTimer.count, TickTimer.elapsed, List.length_map, ← List.map_take, hs, Nat.sub_eq_zero_of_le h, Nat.zero_mul,
    Nat.add_zero, Nat.zero_add, Nat.mul_assoc, Nat.mul_comm p.tickNum]
  rw [Nat.mul_div_cancel _ (Nat.mul_pos hd hn)]

/-- `TICK0 = t` shows `t` plus the cycle number (R102). -/
theorem TickTimer.perCycle_count (p : Params) (hn : 0 < p.tickNum) (hd : 0 < p.tickDen) (t n : Nat) :
    (TickTimer.perCycle p t).count p n = t + n := by
  simp only [TickTimer.count, TickTimer.elapsed, TickTimer.perCycle, List.take_nil, List.sum_nil, List.length_nil, Nat.sub_zero,
    Nat.zero_add, Nat.mul_assoc, Nat.mul_comm p.tickNum]
  rw [Nat.mul_div_cancel _ (Nat.mul_pos hd hn)]

/-- Everything a step of the closed loop does to the core, the host, its reports, its parameters, the timer and the count from the
last end. -/
theorem System.step_cases {y z : System} (h : y.step = .next z) :
    Sys2Proof.Machine.step y.presented = .next z.core ∧ z.agents = y.agents ∧ z.sinceEnd = y.sinceEndAfter z.core ∧
    (z.timer = y.timer ∧ z.now = y.now + 1) ∧
    ((y.presented.preGnt = true ∧ z.host = y.host ∧ z.reports = y.reports) ∨
     (y.presented.preGnt = false ∧ z.host = y.host.next y.agents y.sinceEnd y.presented.outputs ∧
      z.reports = y.reports ++ (y.host.report y.presented.outputs).toList)) := by
  obtain ⟨t, ht⟩ := step_total y.presented
  simp only [System.step, ht, Host.Outcome.next.injEq] at h
  subst h
  cases hg : y.presented.preGnt <;> simp [ht]

/-! ### What the line shows (R102, R199) -/

@[simp] theorem System.withWaveform_wire (y : System) (w : Waveform) : (y.withWaveform w).wire = samples w.pulses := rfl
@[simp] theorem System.withWaveform_wireOn (y : System) (w : Waveform) : (y.withWaveform w).wireOn = false := rfl
@[simp] theorem System.withWaveform_rest (y : System) (w : Waveform) : (y.withWaveform w).rest = w.rest := rfl
@[simp] theorem System.withWaveform_core (y : System) (w : Waveform) : (y.withWaveform w).core = y.core := rfl

/-- Everything a step of the closed loop does to the sensor's list. -/
theorem System.step_wire {y z : System} (h : y.step = .next z) :
    z.rest = y.rest ∧ z.wireOn = y.wireApplied ∧ z.wire = (if y.wireApplied then y.wire.tail else y.wire) := by
  obtain ⟨t, ht⟩ := step_total y.presented
  simp only [System.step, ht, Host.Outcome.next.injEq] at h
  subst h
  exact ⟨rfl, rfl, rfl⟩

/-- Once the list is applied the line shows it, one sample a cycle, and then its rest level for ever. -/
theorem System.line_follows_list (ys : Nat → System) (steps : ∀ i, (ys i).step = .next (ys (i + 1)))
    (applied : (ys 0).wireApplied = true) (n : Nat) : (ys n).line = ((ys 0).wire[n]?).getD (ys 0).rest := by
  induction n generalizing ys with
  | zero => cases h : (ys 0).wire <;> simp [System.line, applied, h]
  | succ n ih =>
    obtain ⟨hr, ho, hw⟩ := System.step_wire (steps 0)
    have := ih (fun i => ys (i + 1)) (fun i => steps (i + 1))
      (by show ((ys (0 + 1)).wireOn || _) = true; rw [ho, applied]; rfl)
    rw [this, hw, if_pos applied, hr]
    cases (ys 0).wire <;> simp

/-- Until the list is applied it waits. -/
theorem System.list_waits (ys : Nat → System) (steps : ∀ i, (ys i).step = .next (ys (i + 1))) (off : (ys 0).wireOn = false) (r : Nat)
    (driven : ∀ i < r, (ys i).core.lineOe = true) :
    (ys r).wireOn = false ∧ (ys r).wire = (ys 0).wire ∧ (ys r).rest = (ys 0).rest := by
  induction r with
  | zero => exact ⟨off, rfl, rfl⟩
  | succ r ih =>
    obtain ⟨h1, h2, h3⟩ := ih fun i hi => driven i (by omega)
    obtain ⟨hr, ho, hw⟩ := System.step_wire (steps r)
    have ha : (ys r).wireApplied = false := by simp [System.wireApplied, h1, driven r (by omega)]
    exact ⟨ho.trans ha, by rw [hw, ha, ← h2]; rfl, hr.trans h3⟩

/-- R102: from the first cycle with `line_oe = 0` on, the line shows the waveform the sensor was given. -/
theorem System.line_follows_waveform (ys : Nat → System) (steps : ∀ i, (ys i).step = .next (ys (i + 1))) (y : System) (w : Waveform)
    (begins : ys 0 = y.withWaveform w) (r : Nat) (driven : ∀ i < r, (ys i).core.lineOe = true)
    (released : (ys r).core.lineOe = false) (n : Nat) : (ys (r + n)).line = w.level n := by
  obtain ⟨-, hw, hr⟩ := System.list_waits ys steps (by simp [begins]) r driven
  rw [System.line_follows_list (fun i => ys (r + i)) (fun i => steps (r + i)) (by simp [System.wireApplied, released]) n]
  simp only [Nat.add_zero, hw, hr, begins, System.withWaveform_wire, System.withWaveform_rest, Waveform.level]

/-- R199: after the pulse list of a frame the line is HIGH for ever. -/
theorem Encoder.encodeFrame_then_high (e : Encoder) (f : Frame) (n : Nat) (h : (samples (e.encodeFrame f).pulses).length ≤ n) :
    (e.encodeFrame f).level n = .high := by
  rw [Waveform.level, List.getElem?_eq_none_iff.mpr h]; rfl

end Sys2Proof.Machine
end

