-- ==== Sys2Proof/Laws/PerInstr.lean ====
section
/-! SUPPORT. The statement made per instruction: its word fits its format (R80). -/

namespace Sys2Proof.Laws.FitsFormat

/-- The word of a well-formed instruction has no bit above its format's width. -/
def Statement (i : Instr) : Prop := i.wellFormed = true → (encode i).wellFormed = true

theorem nop : Statement .nop := fun _ => by decide
theorem start : Statement .start := fun _ => by decide
theorem idle : Statement .idle := fun _ => by decide
theorem reqLow : Statement .reqLow := fun _ => by decide
theorem hs1 : Statement .hs1 := fun _ => by decide
theorem hs2 : Statement .hs2 := fun _ => by decide
theorem hs3 : Statement .hs3 := fun _ => by decide
theorem bitLo : Statement .bitLo := fun _ => by decide
theorem bitHi : Statement .bitHi := fun _ => by decide
theorem check : Statement .check := fun _ => by decide
theorem none : Statement .none := fun _ => by decide
theorem success : Statement .success := fun _ => by decide
theorem timeout : Statement .timeout := fun _ => by decide
theorem checksum : Statement .checksum := fun _ => by decide
theorem frame (h f t g c : Byte) : Statement (.frame h f t g c) := fun _ =>
  decide_eq_true (Frame.toWord ⟨h, f, t, g, c⟩).isLt
theorem zero : Statement .zero := fun _ => by decide
theorem one : Statement .one := fun _ => by decide

end Sys2Proof.Laws.FitsFormat
end

