-- ==== Sys2Proof/Tests/Slice0.lean ====
section
/-! SUPPORT. The model's own tests. Expected values are 95_test_vectors.md's (the vector's id stands at each test), or written out
by hand from the encodings of 30_encoding.md; then a witness for every obligation that has hypotheses. -/

open Sys2Proof Sys2Proof.Machine

namespace Sys2Proof.Tests

/-! ### Helpers -/

/-- The next state, if there is one. -/
def after (o : Host.Outcome State Fault Refusal) : Option State :=
  match o with
  | .next t => some t
  | .fault _ => Option.none
  | .refused _ => Option.none

/-- The input values that the vectors leave out: 0, and `line_in` = 1. -/
def idleIn : Inputs := { rst := false, start := false, line := .high, tick := 0, preReq := false, fire := false }

def lowIn : Inputs := { idleIn with line := .low }

/-- The reset state in the configuration TINY. -/
def tiny : State := { State.reset with cfg := Params.tiny }

/-- TINY in a phase of the transaction, line released. -/
def at_ (p : Phase) : State := { tiny with phase := p, lineOe := false, lineOut := .low, guard := inCapture p }

/-- One edge with given inputs. -/
def edge (s : State) (i : Inputs) : Option State := after (step { s with stim := [i] })

/-- One operation with given inputs. -/
def run1 (i : Instr) (s : State) (x : Inputs) : Option State := after (exec i { s with stim := [x] })

def frameA5 : Frame := ⟨0xA5#8, 0x00#8, 0x19#8, 0x00#8, 0xBE#8⟩

def frame60 : Frame := ⟨60#8, 0#8, 25#8, 0#8, 85#8⟩

/-! ### WellFormed: what each check refuses -/

theorem test_cmd_word_too_wide : (FormatWord.mk .cmd 0b10).wellFormed = false := by decide
theorem test_phase_word_too_wide : (FormatWord.mk .phase 0b1000).wellFormed = false := by decide
theorem test_outcome_word_too_wide : (FormatWord.mk .outcome 0b100).wellFormed = false := by decide
theorem test_frame_word_too_wide : (FormatWord.mk .frame 0x10000000000).wellFormed = false := by decide
theorem test_cell_word_too_wide : (FormatWord.mk .cell 2).wellFormed = false := by decide
theorem test_legal_ref_and_tiny : Params.ref.legal = true ∧ Params.tiny.legal = true := by decide
theorem test_illegal_tick_w : ({ Params.tiny with tickW := 0 }).legal = false := by decide
theorem test_illegal_tick_num : ({ Params.tiny with tickNum := 0 }).legal = false := by decide
theorem test_illegal_tick_den : ({ Params.tiny with tickDen := 0 }).legal = false := by decide
theorem test_illegal_hold : ({ Params.tiny with holdCycles := 0 }).legal = false := by decide
theorem test_illegal_budget : ({ Params.tiny with pollBudget := 0 }).legal = false := by decide
theorem test_illegal_cnt_w : ({ Params.ref with cntW := 14 }).legal = false := by decide

/-! ### Decode: a word of every row, from the tables of R82, R83, R84, R86 and R91 -/

theorem test_decode_nop : decode .cmd 0b0 = .ok .nop := by rfl
theorem test_decode_start : decode .cmd 0b1 = .ok .start := by rfl
theorem test_decode_idle : decode .phase 0b000 = .ok .idle := by rfl
theorem test_decode_reqLow : decode .phase 0b001 = .ok .reqLow := by rfl
theorem test_decode_hs1 : decode .phase 0b010 = .ok .hs1 := by rfl
theorem test_decode_hs2 : decode .phase 0b011 = .ok .hs2 := by rfl
theorem test_decode_hs3 : decode .phase 0b100 = .ok .hs3 := by rfl
theorem test_decode_bitLo : decode .phase 0b101 = .ok .bitLo := by rfl
theorem test_decode_bitHi : decode .phase 0b110 = .ok .bitHi := by rfl
theorem test_decode_check : decode .phase 0b111 = .ok .check := by rfl
theorem test_decode_none : decode .outcome 0b00 = .ok .none := by rfl
theorem test_decode_success : decode .outcome 0b01 = .ok .success := by rfl
theorem test_decode_timeout : decode .outcome 0b10 = .ok .timeout := by rfl
theorem test_decode_checksum : decode .outcome 0b11 = .ok .checksum := by rfl
/-- F1: the 40-bit string of [60, 0, 25, 0, 85]. -/
theorem test_decode_frame :
    decode .frame 0b0011110000000000000110010000000001010101 = .ok (.frame 60#8 0#8 25#8 0#8 85#8) := by rfl
theorem test_decode_zero : decode .cell 0 = .ok .zero := by rfl
theorem test_decode_one : decode .cell 1 = .ok .one := by rfl
theorem test_decode_rejects : decode .cmd 2 = .error (.tooWide .cmd) := by rfl

/-- F2: the 40-bit string of [0xA5, 0x00, 0x19, 0x00, 0xBE], first bit on the wire first. -/
theorem test_wire_order : (List.range 40).map frameA5.wireBit =
    [true, false, true, false, false, true, false, true] ++ List.replicate 8 false ++
    [false, false, false, true, true, false, false, true] ++ List.replicate 8 false ++
    [true, false, true, true, true, true, true, false] := by decide

/-- F2: the cells of the TINY pulse list take 159 cycles, the list 159 + 6 with pause, response and tail. -/
theorem test_pulse_list : (samples (Encoder.tiny.encodeFrame frameA5).pulses).length = 165 := by rfl

/-! ### The words of the opcode table -/

theorem test_table_phase : decodeTableWord 8 0b110 = some .bitHi := by rfl
theorem test_table_frame : decodeTableWord 40 0x3C00190055 = some (.frame 60#8 0#8 25#8 0#8 85#8) := by rfl
theorem test_table_rejects : decodeTableWord 8 0b1000 = Option.none := by rfl
/-- A PHASE word placed after reset is run at the very next edge. -/
theorem test_fetch_word_phase : (after (step (State.reset.withFetchWord 8 0b001))).map (fun t => (t.phase, t.holdCnt)) =
    some (.reqLow, 1) := by decide
/-- A FRAME word placed after reset is judged at the very next edge (K1a's frame). -/
theorem test_fetch_word_frame : (after (step (State.reset.withFetchWord 40 0x3C00190055))).map
    (fun t => (t.outcome, t.rdHum, t.rdTemp)) = some (.success, 60#8, 25#8) := by decide

/-! ### CMD and IDLE -/

/-- C1. -/
theorem test_nop : edge tiny idleIn = some { tiny with cycle := 1 } := by decide
theorem test_nop_row : run1 .nop (at_ .hs2) idleIn = some { at_ .hs2 with stim := [idleIn] } := by decide

/-- C2's state: after a successful read. -/
def readDone : State :=
  { tiny with bitIdx := 39#6, holdCnt := 1, tStart := 7, frame := frame60, outcome := .success, rdHum := 60#8, rdTemp := 25#8 }

/-- C2. -/
theorem test_start : edge readDone { idleIn with start := true } = some { readDone with
    phase := .reqLow, bitIdx := 0#6, holdCnt := 0, frame := Frame.zero, lineOut := .low, outcome := .none, cycle := 1 } := by decide
/-- The row START outside IDLE. -/
theorem test_start_row_busy : (run1 .start (at_ .hs1) idleIn).map (·.phase) = some .hs1 := by decide
/-- C3: frozen, START not taken. -/
theorem test_idle_frozen : edge tiny { idleIn with start := true, preReq := true } = some { tiny with cycle := 1 } := by decide
/-- C4: reset before START. -/
theorem test_idle_reset : edge readDone { idleIn with start := true, rst := true } = some { tiny with cycle := 1 } := by decide

/-! ### REQ_LOW and the handshake -/

/-- C5, C7. -/
theorem test_reqLow_counts : (edge { tiny with phase := .reqLow, lineOut := .low } { lowIn with start := true }).map
    (fun t => (t.phase, t.holdCnt, t.lineOe)) = some (.reqLow, 1, true) := by decide
/-- C6. -/
theorem test_reqLow_releases : (edge { tiny with phase := .reqLow, holdCnt := 1, lineOut := .low } lowIn).map
    (fun t => (t.phase, t.pollCnt, t.holdCnt, t.lineOe, t.lineOut)) = some (.hs1, 0, 1, false, .low) := by decide
/-- C10. -/
theorem test_hs1_ok : (edge { at_ .hs1 with pollCnt := 3 } lowIn).map (fun t => (t.phase, t.pollCnt)) = some (.hs2, 0) := by decide
/-- C11. -/
theorem test_hs1_timeout : edge { at_ .hs1 with pollCnt := 5, rdHum := 60#8, rdTemp := 25#8 } idleIn = some { tiny with
    pollCnt := 5, outcome := .timeout, rdHum := 60#8, rdTemp := 25#8, cycle := 1 } := by decide
/-- C13. -/
theorem test_hs2_again : (edge (at_ .hs2) lowIn).map (fun t => (t.phase, t.pollCnt)) = some (.hs2, 1) := by decide
/-- C14. -/
theorem test_hs2_ok : (edge { at_ .hs2 with pollCnt := 1 } idleIn).map (fun t => (t.phase, t.pollCnt)) = some (.hs3, 0) := by decide
/-- C15. -/
theorem test_hs3_acquires : (edge { at_ .hs3 with pollCnt := 1 } lowIn).map (fun t => (t.phase, t.bitIdx, t.pollCnt, t.guard)) =
    some (.bitLo, 0#6, 0, true) := by decide
/-- C16: no acquire in a frozen cycle. -/
theorem test_hs3_frozen : edge { at_ .hs3 with pollCnt := 1 } { lowIn with preReq := true } =
    some { at_ .hs3 with pollCnt := 1, cycle := 1 } := by decide

/-! ### Bit capture -/

/-- B1, B3: the request is refused under the guard. -/
theorem test_bitLo_stamps : (edge { at_ .bitLo with bitIdx := 3#6, tStart := 4 } { idleIn with tick := 13, preReq := true }).map
    (fun t => (t.phase, t.bitIdx, t.pollCnt, t.tStart)) = some (.bitHi, 3#6, 0, 13) := by decide
/-- B2. -/
theorem test_bitLo_again : (edge { at_ .bitLo with bitIdx := 3#6, tStart := 4 } { lowIn with tick := 13 }).map
    (fun t => (t.phase, t.pollCnt, t.tStart)) = some (.bitLo, 1, 4) := by decide
/-- B4a: the tick wraps inside the pulse. -/
theorem test_bitHi_one :
    (edge { at_ .bitHi with bitIdx := 3#6, pollCnt := 4, tStart := 13, frame := ⟨0xA0#8, 0#8, 0#8, 0#8, 0#8⟩ } { lowIn with tick := 2 }).map
    (fun t => (t.phase, t.bitIdx, t.pollCnt, t.frame)) = some (.bitLo, 4#6, 0, ⟨0xB0#8, 0#8, 0#8, 0#8, 0#8⟩) := by decide
/-- B5b: bit 39 is byte 4 bit 0, and the guard is released. -/
theorem test_bitHi_last :
    (edge { at_ .bitHi with bitIdx := 39#6, pollCnt := 4, tStart := 14, frame := frameA5 } { lowIn with tick := 3 }).map
    (fun t => (t.phase, t.bitIdx, t.guard, t.frame)) = some (.check, 39#6, false, { frameA5 with b4 := 0xBF#8 }) := by decide
/-- B4b at the row ZERO: width equal to the threshold, bit 3 is 0. -/
theorem test_zero : (run1 .zero { at_ .bitHi with bitIdx := 3#6, pollCnt := 2, tStart := 13, frame := ⟨0xA0#8, 0#8, 0#8, 0#8, 0#8⟩ } lowIn).map
    (fun t => (t.phase, t.bitIdx, t.pollCnt, t.frame)) = some (.bitLo, 4#6, 0, ⟨0xA0#8, 0#8, 0#8, 0#8, 0#8⟩) := by decide
/-- B4c at the row ONE: bit 8 is byte 1 bit 7. -/
theorem test_one : (run1 .one { at_ .bitHi with bitIdx := 8#6, pollCnt := 3, tStart := 13, frame := ⟨0xA5#8, 0#8, 0#8, 0#8, 0#8⟩ } lowIn).map
    (fun t => (t.phase, t.bitIdx, t.frame)) = some (.bitLo, 9#6, ⟨0xA5#8, 0x80#8, 0#8, 0#8, 0#8⟩) := by decide
/-- T1 and T3: the corners of the exact comparison. -/
theorem test_threshold : [44, 45, 46, 4294967295].map (isOne Params.ref) = [false, false, true, true] ∧
    [2159, 2160, 2161].map (isOne { Params.ref with tickDen := 48 }) = [false, false, true] := by decide

/-! ### The result -/

/-- CHECK of vectors K, from `rd_hum=11, rd_temp=22`. -/
def checking (f : Frame) : State := { at_ .check with bitIdx := 39#6, frame := f, rdHum := 11#8, rdTemp := 22#8 }

/-- K1a. -/
theorem test_check_success : (edge (checking frame60) idleIn).map (fun t => (t.phase, t.outcome, t.rdHum, t.rdTemp, t.lineOe, t.lineOut)) =
    some (.idle, .success, 60#8, 25#8, true, .high) := by decide
/-- K1b. -/
theorem test_check_checksum :
    (edge (checking { frame60 with b4 := 86#8 }) idleIn).map (fun t => (t.phase, t.outcome, t.rdHum, t.rdTemp, t.lineOe, t.lineOut)) =
    some (.idle, .checksum, 11#8, 22#8, true, .high) := by decide
/-- K1d at the row FRAME: the sum 1020 is 252 modulo 256. -/
theorem test_frame_success : (run1 (.frame 255#8 255#8 255#8 255#8 252#8) (checking frame60) idleIn).map
    (fun t => (t.outcome, t.rdHum, t.rdTemp)) = some (.success, 255#8, 255#8) := by decide
/-- K1m at the row FRAME. -/
theorem test_frame_checksum : (run1 (.frame 60#8 1#8 25#8 0#8 85#8) (checking frame60) idleIn).map
    (fun t => (t.outcome, t.rdHum, t.rdTemp)) = some (.checksum, 11#8, 22#8) := by decide
/-- R84: NONE is "no result yet"; the row ends nothing. -/
theorem test_none : (run1 .none readDone idleIn).map (fun t => (t.phase, t.outcome, t.rdHum)) = some (.idle, .none, 60#8) := by decide
/-- K3's first frame at the row SUCCESS. -/
theorem test_success : (run1 .success (checking frameA5) idleIn).map (fun t => (t.phase, t.outcome, t.rdHum, t.rdTemp, t.lineOe)) =
    some (.idle, .success, 165#8, 25#8, true) := by decide
/-- B6 at the row TIMEOUT: the partial frame stays. -/
theorem test_timeout :
    (run1 .timeout { at_ .bitHi with bitIdx := 17#6, pollCnt := 5, frame := ⟨0xA5#8, 0#8, 0x80#8, 0#8, 0#8⟩, rdHum := 60#8 } idleIn).map
    (fun t => (t.phase, t.bitIdx, t.guard, t.outcome, t.rdHum, t.frame)) =
    some (.idle, 17#6, false, .timeout, 60#8, ⟨0xA5#8, 0#8, 0x80#8, 0#8, 0#8⟩) := by decide
/-- K1b at the row CHECKSUM. -/
theorem test_checksum : (run1 .checksum (checking { frame60 with b4 := 86#8 }) idleIn).map
    (fun t => (t.phase, t.outcome, t.rdHum, t.rdTemp, t.lineOut)) = some (.idle, .checksum, 11#8, 22#8, .high) := by decide
/-- G5's state in the loop. -/
def midLoop : State :=
  { at_ .bitHi with
    bitIdx := 17#6, pollCnt := 2, tStart := 14, frame := ⟨0xA5#8, 0#8, 0x80#8, 0#8, 0#8⟩ }

/-- G5: reset inside the loop, against a request. -/
theorem test_reset_in_loop :
    edge { midLoop with rdHum := 60#8, rdTemp := 25#8 } { idleIn with rst := true, preReq := true } = some { tiny with cycle := 1 } := by
  decide

/-! ### Companion agents -/

/-- X1 with `v` = 25: TENS shows 2, then UNITS shows 5. -/
theorem test_display_digits : (activeDigit .tens 25, activeDigit .units 25, activeDigit .tens 100) = (2, 5, 10) := by decide
/-- X1: a firing in a granted cycle toggles to TENS. -/
theorem test_display_fires : (edge readDone { idleIn with preReq := true, fire := true }).map (·.digitPos) = some .tens := by decide

/-- A whole system in IDLE, the host about to ask. -/
def asking : System :=
  { core := tiny, host := .request, agents := { samplePeriod := 3, minInterval := 5, refreshPeriod := 4 }, sinceEnd := Option.none,
    reports := [], wire := [], wireOn := false, rest := .high, pre := [0], fires := [0], dueIn := 1, owed := 0, rsts := [],
    timer := .perCycle tiny.cfg 0, now := 0 }

/-- The next system, if there is one. -/
def nextSystem (y : System) : Option System :=
  match y.step with
  | .next z => some z
  | .fault _ => Option.none
  | .refused _ => Option.none

/-- X2, C3: the request stands while the cycle is frozen. -/
theorem test_host_frozen : (nextSystem asking).map (fun z => (z.host, z.core.phase)) = some (.request, .idle) := by decide
/-- X2: the block takes it in the first enabled cycle. -/
theorem test_host_taken : (nextSystem { asking with pre := [] }).map (fun z => (z.host, z.core.phase)) = some (.request, .reqLow) := by
  decide
/-- R216: in a reset cycle that the display owns the host does not act on `busy = 1`. -/
theorem test_host_held_in_reset : (nextSystem { asking with core := { tiny with phase := .reqLow }, rsts := [0] }).map
    (fun z => (z.host, z.core.phase)) = some (.request, .idle) := by decide
/-- R242: with `MIN_INTERVAL` = 5, `start` shows at the fifth edge after the end and not at the fourth. -/
theorem test_host_min_interval : [3, 4].map (fun n =>
    (nextSystem { asking with host := .sleep 1, pre := [], sinceEnd := some n }).map (fun z => z.host)) =
    [some (.sleep 0), some .request] := by decide
/-- Log entry 17: the edge that ends a transaction starts the count anew, any other counts on. -/
theorem test_since_end : [Phase.check, .idle].map (fun p => (nextSystem { asking with
    core := { tiny with phase := p }, pre := [], sinceEnd := some 7 }).map (·.sinceEnd)) = [some (some 1), some (some 8)] := by decide
/-- R199: the sensor's answer waits for the release edge, begins with the pause of `pre_high` = 1, and goes to LOW. -/
theorem test_sensor_answers :
    let y := { asking with core := { tiny with phase := .hs1, lineOe := false, lineOut := .low }, pre := [] }.sensorAnswers
      Encoder.tiny ⟨1, 2, 3, 4, 10⟩
    (({ y with core := tiny }).line, y.line, (nextSystem y).map (·.line)) = (.high, .high, some .low) := by decide
/-- R199, F2: the 165th and last sample is that of `tail_low` = 1; after it the line rests HIGH. -/
theorem test_then_high :
    let y := asking.sensorAnswers Encoder.tiny frameA5
    let last := { y with core := { tiny with lineOe := false }, wire := y.wire.drop 164, pre := [] }
    (last.line, (nextSystem last).map (·.line)) = (.low, some .high) := by rfl
/-- Log entry 23: with `line_oe = 1` again the line shows the list; before the list begins it shows `line_out`. -/
theorem test_line_after_the_list_began :
    [true, false].map (fun on => { asking with wireOn := on, wire := [.low], rest := .low }.line) = [.low, .high] := by decide
/-- T4: `tick = floor(cycle/2)`, `TICK_NUM` = 2; `dt` and the bit of HIGH pulses of 1 to 5 cycles from cycle 10 and from cycle 11. -/
theorem test_slow_tick : [10, 11].map (fun c => [1, 2, 3, 4, 5].map fun w =>
    let p := { Params.tiny with tickNum := 2 }
    let y := { asking with core := { tiny with cfg := p }, timer := ⟨0, 0, 1, [], 1⟩ }
    let dt := { y with now := c + w }.inputs.tick - { y with now := c }.inputs.tick
    (dt, isOne p dt)) =
    [[(0, false), (1, false), (1, false), (2, true), (2, true)], [(1, false), (1, false), (2, true), (2, true), (3, true)]] := by
  decide
/-- R190: a firing acts only once one is due. -/
theorem test_firing_waits_for_the_timer : [1, 0].map (fun d => (nextSystem { asking with dueIn := d }).map (fun z =>
    (z.core.digitPos, z.dueIn, z.owed))) = [some (.units, 0, 0), some (.tens, 3, 0)] := by decide

/-! ### Witnesses: states and operands that meet the hypotheses of an obligation -/

/-- TINY in a phase, with what the invariant asks, and inputs to come. -/
def inv_ (p : Phase) (stim : List Inputs) : State :=
  { tiny with
    phase := p, stim := stim, lineOe := decide (p = .idle) || decide (p = .reqLow),
    lineOut := if p = .idle then .high else .low, guard := inCapture p }

/-- The inputs to come play no part in the invariant. -/
theorem inv_stim {s : State} (h : StateInv s) (stim : List Inputs) : StateInv { s with stim := stim } :=
  ⟨h.legal, h.guardWindow, h.idleLine, h.reqLowLine, h.releasedLine, h.busyNone, h.pollBound, h.holdBound, h.bitBound, h.uncaptured,
    h.clearBefore, h.tickBound⟩

theorem inv_of_phase (p : Phase) (stim : List Inputs) : StateInv (inv_ p stim) :=
  inv_stim (s := inv_ p []) (by cases p <;> constructor <;> decide) stim

theorem witness_DecodeOfEncodeIsIdentity : (Instr.frame 255#8 0#8 255#8 0#8 255#8).wellFormed = true := by decide

theorem witness_EveryWordInWidthHasOneMeaning :
    0xFFFFFFFFFF < 2 ^ Format.frame.width ∧ ¬ 0x10000000000 < 2 ^ Format.frame.width := by decide

theorem witness_WireBitIsFrameBit : 0 < 40 ∧ 39 < 40 := by decide

theorem witness_StepRunsTheDecodedInstruction : ∃ s i t, s.inputs.rst = false ∧ s.frozen = false ∧
    decode .phase s.phase.code.toNat = .ok i ∧ i.wellFormed = true ∧ exec i s = .next t :=
  ⟨inv_ .hs1 [lowIn], .hs1, _, by decide, by decide, rfl, rfl, rfl⟩

theorem witness_ResetEdgeGivesTheResetValues : (inv_ .bitHi [{ idleIn with rst := true, preReq := true }]).inputs.rst = true := by
  decide

theorem witness_FrozenCycleChangesNoRegister :
    (inv_ .hs1 [{ idleIn with preReq := true }]).frozen = true ∧ (inv_ .bitLo [{ idleIn with preReq := true }]).guard = true ∧
    (inv_ .hs1 [idleIn]).inputs.rst = false ∧ (inv_ .hs1 [idleIn]).frozen = false := by decide

theorem witness_OutputsAreTheRegisters : idleIn.preReq = ({ lowIn with start := true, tick := 9 } : Inputs).preReq := by decide

theorem witness_WithoutPreemptorNothingIsFrozen :
    ({ tiny with cfg := { Params.tiny with hasPreemptor := false }, stim := [{ idleIn with preReq := true }] } : State).cfg.hasPreemptor
      = false := by decide

theorem witness_IdleWithoutCommandChangesNothing : (inv_ .idle [idleIn]).inputs.start = false := by decide

theorem witness_StartBeginsATransaction :
    readDone.phase = .idle ∧ (inv_ .idle [{ idleIn with start := true }]).inputs.start = true := by decide

theorem witness_StartOutsideIdleHasNoEffect : (inv_ .reqLow []).phase ≠ .idle ∧ (inv_ .check []).phase ≠ .idle := by decide

theorem witness_StartIsIgnoredWhenBusyOrFrozen :
    ((inv_ .hs2 [idleIn]).stim = idleIn :: [] ∧ (inv_ .hs2 [idleIn]).phase ≠ .idle) ∧
    ((inv_ .idle [{ idleIn with preReq := true }]).stim = { idleIn with preReq := true } :: [] ∧
      (inv_ .idle [{ idleIn with preReq := true }]).frozen = true) := by decide

theorem witness_StoreBitWritesOneFrameBit : 0 < 40 ∧ 39 < 40 := by decide

theorem witness_NoBitIsStoredBeyondTheFrame : 40 ≤ 40 ∧ 40 ≤ 63 := by decide

theorem witness_ThresholdIsStrict :
    4 * Params.tiny.tickNum > Params.tiny.threshUs * Params.tiny.tickDen ∧
    2 * Params.tiny.tickNum < Params.tiny.threshUs * Params.tiny.tickDen ∧
    3 * Params.tiny.tickNum = Params.tiny.threshUs * Params.tiny.tickDen := by decide

/-- The counter wraps within the pulse: 13 + 5 = 18. -/
theorem witness_ElapsedTicksSurviveTheWrap :
    let s : State := { inv_ .bitHi [{ lowIn with tick := 2 }] with tStart := 13 }
    s.tStart = 13 % 2 ^ s.cfg.tickW ∧ s.inputs.tick % 2 ^ s.cfg.tickW = (13 + 5) % 2 ^ s.cfg.tickW ∧ 5 < 2 ^ s.cfg.tickW ∧
    s.inputs.tick % 2 ^ s.cfg.tickW = (13 + 21) % 2 ^ s.cfg.tickW := by decide

theorem witness_OneCorruptByteIsCaught :
    (frame60.b0.toNat + frame60.b1.toNat + frame60.b2.toNat + frame60.b3.toNat) % 256 = frame60.b4.toNat ∧
    (checking { frame60 with b0 := 61#8 }).frame = { frame60 with b0 := 61#8 } ∧ 61#8 ≠ frame60.b0 ∧ 1#8 ≠ frame60.b1 ∧
    24#8 ≠ frame60.b2 ∧ 255#8 ≠ frame60.b3 ∧ 213#8 ≠ frame60.b4 := by decide

theorem witness_IdleRunsTheCommandWord : readDone.phase = .idle := by decide

theorem witness_CheckRunsTheFrameWord :
    dataSum (checking frame60).frame = (checking frame60).frame.b4 ∧
    dataSum (checking { frame60 with b4 := 86#8 }).frame ≠ (checking { frame60 with b4 := 86#8 }).frame.b4 := by decide

theorem witness_WaitsRunTheRowTheyFind :
    (inv_ .bitHi [lowIn]).inputs.line = .low ∧
    (({ inv_ .hs1 [idleIn] with pollCnt := 5 } : State).pollCnt + 1 = Params.tiny.pollBudget ∧ (inv_ .hs1 [idleIn]).inputs.line = .high) ∧
    (({ inv_ .hs2 [lowIn] with pollCnt := 5 } : State).pollCnt + 1 = Params.tiny.pollBudget ∧ (inv_ .hs2 [lowIn]).inputs.line = .low) := by
  decide

/-- Two inputs that differ in everything the operation of the phase does not look at, in each phase. -/
theorem witness_EachCycleLooksOnlyAtItsInputs : ∀ p : Phase, ∃ x y : Inputs, x ≠ y ∧
    let s := inv_ p [x]
    s.stim = x :: [] ∧ x.rst = y.rst ∧ x.preReq = y.preReq ∧ x.fire = y.fire ∧
    (x.rst = false → s.frozen = false →
      (s.phase = .idle → x.start = y.start) ∧
      (s.phase ∈ [Phase.hs1, .hs2, .hs3, .bitLo, .bitHi] → x.line = y.line) ∧
      (s.phase = .bitLo → x.line = .high → x.tick = y.tick) ∧
      (s.phase = .bitHi → x.line = .low → x.tick = y.tick)) := by
  intro p
  cases p
  · exact ⟨idleIn, { lowIn with tick := 5 }, by decide, by decide⟩
  · exact ⟨idleIn, { lowIn with tick := 5, start := true }, by decide, by decide⟩
  · exact ⟨idleIn, { idleIn with tick := 5, start := true }, by decide, by decide⟩
  · exact ⟨idleIn, { idleIn with tick := 5, start := true }, by decide, by decide⟩
  · exact ⟨idleIn, { idleIn with tick := 5, start := true }, by decide, by decide⟩
  · exact ⟨idleIn, { idleIn with start := true }, by decide, by decide⟩
  · exact ⟨idleIn, { idleIn with tick := 5, start := true }, by decide, by decide⟩
  · exact ⟨idleIn, { lowIn with tick := 5, start := true }, by decide, by decide⟩

theorem witness_StepKeepsTheInvariant : ∀ p : Phase, ∃ s t, s.phase = p ∧ StateInv s ∧ step s = .next t := by
  intro p
  exact ⟨inv_ p [{ idleIn with rst := true }], _, rfl, inv_of_phase p _, rfl⟩

theorem witness_CountersDoNotWrap : ∃ s, StateInv s ∧ s.bitIdx ≠ 39#6 :=
  ⟨inv_ .bitLo [], inv_of_phase _ _, by decide⟩

theorem witness_ParametersAreFixed : ∃ s t, step s = .next t ∧ t.digitPos ≠ s.digitPos :=
  ⟨inv_ .hs1 [{ idleIn with preReq := true, fire := true }], _, rfl, by decide⟩

/-- Each of the three cases of the statement occurs. -/
theorem witness_StoreChangesOnlyOnSuccess :
    (∃ s t, step s = .next t ∧ t.rdHum = s.rdHum ∧ s.rdHum ≠ 0#8) ∧
    (∃ s t, step s = .next t ∧ s.inputs.rst = true ∧ t.rdHum ≠ s.rdHum) ∧
    (∃ s t, step s = .next t ∧ s.phase = .check ∧ t.outcome = .success ∧ t.rdHum ≠ s.rdHum) :=
  ⟨⟨{ readDone with stim := [idleIn] }, _, rfl, by decide, by decide⟩,
   ⟨{ readDone with stim := [{ idleIn with rst := true }] }, _, rfl, by decide, by decide⟩,
   ⟨{ checking frame60 with stim := [idleIn] }, _, rfl, by decide, by decide, by decide⟩⟩

theorem witness_OutcomeIsFinalAtTheLastEdge :
    (∃ s t, StateInv s ∧ s.inputs.rst = false ∧ step s = .next t ∧ s.phase ≠ .idle ∧ t.phase = .idle) ∧
    (∃ s t, StateInv s ∧ s.inputs.rst = false ∧ step s = .next t ∧ s.phase ≠ .idle ∧ t.phase ≠ .idle) ∧
    (∃ s t, StateInv s ∧ s.inputs.rst = false ∧ step s = .next t ∧ s.phase = .idle ∧ t.phase = .idle) ∧
    (∃ s t, StateInv s ∧ s.inputs.rst = false ∧ step s = .next t ∧ s.phase = .idle ∧ t.phase ≠ .idle) :=
  ⟨⟨inv_ .check [idleIn], _, inv_of_phase _ _, by decide, rfl, by decide, by decide⟩,
   ⟨inv_ .hs1 [idleIn], _, inv_of_phase _ _, by decide, rfl, by decide, by decide⟩,
   ⟨inv_ .idle [idleIn], _, inv_of_phase _ _, by decide, rfl, by decide, by decide⟩,
   ⟨inv_ .idle [{ idleIn with start := true }], _, inv_of_phase _ _, by decide, rfl, by decide, by decide⟩⟩

theorem witness_PhasesAreVisitedInOrder :
    (∃ s t, s.inputs.rst = false ∧ step s = .next t ∧ s.phase = .bitHi ∧ t.phase = .bitLo) ∧
    (∃ s t, s.inputs.rst = false ∧ step s = .next t ∧ s.phase = .bitHi ∧ t.phase = .check) :=
  ⟨⟨{ inv_ .bitHi [lowIn] with bitIdx := 38#6 }, _, by decide, rfl, by decide, by decide⟩,
   ⟨{ inv_ .bitHi [lowIn] with bitIdx := 39#6 }, _, by decide, rfl, by decide, by decide⟩⟩

theorem inv_hold_last (stim : List Inputs) : StateInv { inv_ .reqLow stim with holdCnt := 1 } :=
  inv_stim (s := { inv_ .reqLow [] with holdCnt := 1 }) (by constructor <;> decide) stim

theorem inv_poll_last (p : Phase) (stim : List Inputs) : StateInv { inv_ p stim with pollCnt := 5 } :=
  inv_stim (s := { inv_ p [] with pollCnt := 5 }) (by cases p <;> constructor <;> decide) stim

theorem witness_LineTurnsOnlyAtReleaseAndEnd :
    (∃ s t, StateInv s ∧ s.inputs.rst = false ∧ step s = .next t ∧ t.lineOe ≠ s.lineOe ∧ s.phase = .reqLow) ∧
    (∃ s t, StateInv s ∧ s.inputs.rst = false ∧ step s = .next t ∧ t.lineOe ≠ s.lineOe ∧ t.phase = .idle) :=
  ⟨⟨{ inv_ .reqLow [lowIn] with holdCnt := 1 }, _, inv_hold_last _, by decide, rfl, by decide, by decide⟩,
   ⟨inv_ .check [idleIn], _, inv_of_phase _ _, by decide, rfl, by decide, by decide⟩⟩

theorem witness_GuardChangesOnlyAtItsEdges :
    (∃ s t, step s = .next t ∧ s.guard = false ∧ t.guard = true) ∧
    (∃ s t, step s = .next t ∧ s.guard = true ∧ t.guard = false ∧ t.phase = .check) ∧
    (∃ s t, step s = .next t ∧ s.guard = true ∧ t.guard = false ∧ t.outcome = .timeout) ∧
    (∃ s t, step s = .next t ∧ s.guard = true ∧ t.guard = false ∧ s.inputs.rst = true) :=
  ⟨⟨inv_ .hs3 [lowIn], _, rfl, by decide, by decide⟩,
   ⟨{ inv_ .bitHi [lowIn] with bitIdx := 39#6 }, _, rfl, by decide, by decide, by decide⟩,
   ⟨{ inv_ .bitLo [lowIn] with pollCnt := 5 }, _, rfl, by decide, by decide, by decide⟩,
   ⟨inv_ .bitLo [{ idleIn with rst := true }], _, rfl, by decide, by decide, by decide⟩⟩

theorem witness_HandshakeTimeoutReadsNoBit : ∃ s t, StateInv s ∧ s.phase ∈ [Phase.hs1, .hs2, .hs3] ∧ s.inputs.rst = false ∧
    step s = .next t ∧ t.phase = .idle :=
  ⟨{ inv_ .hs2 [lowIn] with pollCnt := 5 }, _, inv_poll_last _ _, by decide, by decide, rfl, by decide⟩

theorem witness_PollThatFindsNoChangeCountsOne : ∃ (s : State) (i : Instr) (l : Level),
    (i, l) ∈ [(Instr.hs1, Level.high), (.hs2, .low), (.hs3, .high), (.bitLo, .low), (.bitHi, .high)] ∧
    StateInv s ∧ s.inputs.line = l ∧ s.pollCnt + 1 ≠ s.cfg.pollBudget :=
  ⟨inv_ .hs2 [lowIn], .hs2, .low, by decide, inv_of_phase _ _, rfl, by decide⟩

/-- Five HIGH samples, then a LOW one: the change on the last poll the budget allows (C12). -/
theorem witness_WaitCountsItsPolls_exit : ∃ (s : State) (p : Phase) (l : Level) (held : List Inputs) (x : Inputs) (rest : List Inputs),
    (p, l) ∈ [(Phase.hs1, Level.high), (.hs2, .low), (.hs3, .high), (.bitLo, .low), (.bitHi, .high)] ∧
    StateInv s ∧ s.phase = p ∧ s.pollCnt = 0 ∧ s.stim = held ++ x :: rest ∧ (∀ y ∈ held, quiet y ∧ y.line = l) ∧ quiet x ∧
    held.length < s.cfg.pollBudget ∧ x.line ≠ l :=
  ⟨inv_ .hs1 (List.replicate 5 idleIn ++ [lowIn]), .hs1, .high, List.replicate 5 idleIn, lowIn, [], by decide, inv_of_phase _ _, rfl, rfl,
    rfl, fun y hy => by rw [List.eq_of_mem_replicate hy]; exact ⟨⟨rfl, rfl⟩, rfl⟩, ⟨rfl, rfl⟩, by decide, by decide⟩

/-- Six LOW samples: the budget is spent (P3). -/
theorem witness_WaitCountsItsPolls_timeout : ∃ (s : State) (p : Phase) (l : Level) (held : List Inputs) (x : Inputs) (rest : List Inputs),
    (p, l) ∈ [(Phase.hs1, Level.high), (.hs2, .low), (.hs3, .high), (.bitLo, .low), (.bitHi, .high)] ∧
    StateInv s ∧ s.phase = p ∧ s.pollCnt = 0 ∧ s.stim = held ++ x :: rest ∧ (∀ y ∈ held, quiet y ∧ y.line = l) ∧ quiet x ∧
    held.length < s.cfg.pollBudget ∧ x.line = l ∧ held.length + 1 = s.cfg.pollBudget :=
  ⟨inv_ .hs2 (List.replicate 5 lowIn ++ [lowIn]), .hs2, .low, List.replicate 5 lowIn, lowIn, [], by decide, inv_of_phase _ _, rfl, rfl,
    rfl, fun y hy => by rw [List.eq_of_mem_replicate hy]; exact ⟨⟨rfl, rfl⟩, rfl⟩, ⟨rfl, rfl⟩, by decide, rfl, rfl⟩

/-- Three cycles of hold in TINY, the first of them frozen (P4, cycles 1 to 3). -/
theorem witness_HoldLastsExactly : ∃ (s : State) (n : Nat), StateInv s ∧ s.phase = .reqLow ∧
    (∀ x ∈ s.stim.take n, x.rst = false) ∧ enabledIn s.cfg (s.stim.take n) = s.cfg.holdCycles - s.holdCnt ∧
    (∀ k, k < n → enabledIn s.cfg (s.stim.take k) < s.cfg.holdCycles - s.holdCnt) ∧ n = 3 :=
  ⟨inv_ .reqLow [{ lowIn with preReq := true }, lowIn, lowIn], 3, inv_of_phase _ _, rfl, by decide, rfl, by decide, rfl⟩

theorem witness_EnabledEdgesUseUpTheBound :
    (∃ s t, StateInv s ∧ s.inputs.rst = false ∧ step s = .next t ∧ s.frozen = true) ∧
    (∃ s t, StateInv s ∧ s.inputs.rst = false ∧ step s = .next t ∧ s.frozen = false ∧ s.phase ≠ .idle) ∧
    (∃ s t, StateInv s ∧ s.inputs.rst = false ∧ step s = .next t ∧ s.phase = .idle ∧ t.phase = .reqLow) :=
  ⟨⟨inv_ .hs1 [{ idleIn with preReq := true }], _, inv_of_phase _ _, by decide, rfl, by decide⟩,
   ⟨inv_ .hs1 [idleIn], _, inv_of_phase _ _, by decide, rfl, by decide, by decide⟩,
   ⟨inv_ .idle [{ idleIn with start := true }], _, inv_of_phase _ _, by decide, rfl, by decide, by decide⟩⟩

/-- A whole transaction left in TINY (499 edges from `HS1` on): its last edge, put off by one
request. -/
theorem witness_EveryTransactionEnds : ∃ s k, StateInv s ∧ s.phase ≠ .idle ∧ (∀ x ∈ s.stim, x.rst = false) ∧
    k ≤ s.stim.length ∧ s.edgesLeft + requests k s.stim ≤ k :=
  ⟨inv_ .check [{ idleIn with preReq := true }, idleIn], 2, inv_of_phase _ _, by decide, by decide, by decide, by decide⟩

/-- P1d in TINY, 1 + 2 + 6 edges with `line_in` LOW while the block drives the line, and one edge more for a frozen poll. -/
theorem witness_NoSensorTimesOutOnTime : ∃ (s : State) (n : Nat), StateInv s ∧ s.phase = .idle ∧ s.frozen = false ∧
    s.inputs.start = true ∧ (∀ x ∈ s.stim.take n, x.rst = false) ∧
    enabledIn s.cfg (s.stim.take n) = 1 + s.cfg.holdCycles + s.cfg.pollBudget ∧
    (∀ k, k < n → enabledIn s.cfg (s.stim.take k) < 1 + s.cfg.holdCycles + s.cfg.pollBudget) ∧
    (∀ k, k < n → ∀ x ∈ s.stim[k]?, 1 + s.cfg.holdCycles ≤ enabledIn s.cfg (s.stim.take k) →
      taken s.cfg x = true ∨ x.line = .high) ∧ n = 10 :=
  ⟨inv_ .idle ({ idleIn with start := true } :: lowIn :: lowIn :: { lowIn with preReq := true } :: List.replicate 6 idleIn), 10,
    inv_of_phase _ _, rfl, by decide, rfl, by decide, rfl, by decide, by decide, rfl⟩

/-- The cells of the TINY encoder: one LOW sample is left, then HIGH for `w1` = 5 or `w0` = 2 ticks; the request is up all the
time. -/
def cellSamples (b : Bool) : CellSamples where
  lows := []
  rise := { idleIn with tick := 13, preReq := true }
  highs := List.replicate (if b then 4 else 1) { idleIn with preReq := true }
  fall := { lowIn with tick := if b then 2 else 15, preReq := true }

theorem cellSamples_clean (b : Bool) : (cellSamples b).clean Params.tiny := by
  cases b <;> constructor <;> decide

theorem witness_OneCellIsCaptured : ∃ (s : State) (c : CellSamples) (rest : List Inputs), StateInv s ∧ s.phase = .bitLo ∧ s.pollCnt = 0 ∧ CellSamples.clean s.cfg c ∧
    s.stim = c.inputs ++ rest :=
  ⟨inv_ .bitLo ((cellSamples true).inputs ++ [idleIn]), cellSamples true, [idleIn], inv_of_phase _ _, rfl, rfl, cellSamples_clean true, rfl⟩

theorem witness_FortySymbolsAssembleTheFrame : (inv_ .bitLo []).bitIdx = 0#6 := by decide

theorem witness_CaptureLoopRecoversTheFrame : ∃ (s : State) (f : Frame) (cs : List CellSamples) (rest : List Inputs), StateInv s ∧ s.phase = .bitLo ∧ s.bitIdx = 0#6 ∧ s.pollCnt = 0 ∧
    cs.length = 40 ∧ (∀ c ∈ cs, CellSamples.clean s.cfg c) ∧
    cs.map (fun c => CellSamples.bit s.cfg c) = (List.range 40).map (Frame.wireBit f) ∧
    s.stim = cs.flatMap CellSamples.inputs ++ rest :=
  ⟨inv_ .bitLo (((List.range 40).map fun n => cellSamples (frameA5.wireBit n)).flatMap CellSamples.inputs ++ []), frameA5,
    (List.range 40).map fun n => cellSamples (frameA5.wireBit n), [], inv_of_phase _ _, rfl, rfl, rfl, rfl,
    fun c hc => by obtain ⟨n, -, rfl⟩ := List.mem_map.1 hc; exact cellSamples_clean _,
    by decide, rfl⟩

/-- P4's exchange in TINY for any frame: a frozen cycle in the hold and two in the pause before the response; here one more before
`CHECK` (K3). -/
def exchangeOf (f : Frame) : Exchange where
  command := { idleIn with start := true }
  hold := [{ lowIn with preReq := true }, lowIn]
  release := lowIn
  pause := [{ idleIn with preReq := true }, { idleIn with preReq := true }, idleIn]
  respFall := lowIn
  respLow := [lowIn]
  respRise := idleIn
  respHigh := [idleIn]
  cellFall := lowIn
  cells := (List.range 40).map fun n => cellSamples (f.wireBit n)
  putOff := [{ idleIn with preReq := true }]
  judge := idleIn

theorem exchangeOf_clean (f : Frame) : (exchangeOf f).clean Params.tiny where
  start := (by decide : enabledEdge Params.tiny { idleIn with start := true } ∧ true = true)
  held := (by decide : (∀ x ∈ [{ lowIn with preReq := true }, lowIn], x.rst = false) ∧
    enabledIn Params.tiny [{ lowIn with preReq := true }, lowIn] + 1 = 2)
  releases := (by decide : enabledEdge Params.tiny lowIn)
  pauseHigh := (by decide : staysAt Params.tiny .high [{ idleIn with preReq := true }, { idleIn with preReq := true }, idleIn])
  falls := (by decide : enabledEdge Params.tiny lowIn ∧ lowIn.line = .low)
  respLow := (by decide : staysAt Params.tiny .low [lowIn])
  rises := (by decide : enabledEdge Params.tiny idleIn ∧ idleIn.line = .high)
  respHigh := (by decide : staysAt Params.tiny .high [idleIn])
  cellFalls := (by decide : enabledEdge Params.tiny lowIn ∧ lowIn.line = .low)
  budgets := (by decide : enabledIn Params.tiny [{ idleIn with preReq := true }, { idleIn with preReq := true }, idleIn] < 6 ∧
    enabledIn Params.tiny [lowIn] < 6 ∧ enabledIn Params.tiny [idleIn] < 6)
  forty := rfl
  cellsClean := fun c hc => by obtain ⟨n, -, rfl⟩ := List.mem_map.1 hc; exact cellSamples_clean _
  delayed := (by decide : ∀ x ∈ [{ idleIn with preReq := true }], x.rst = false ∧ taken Params.tiny x = true)
  judged := (by decide : enabledEdge Params.tiny idleIn)

/-- P4 takes 172 edges, as P4's length check says, and the frozen cycle before `CHECK` makes it 173. -/
theorem test_exchange_length : (exchangeOf frameA5).inputs.length = 173 := by rfl

/-- A frame that matches and one that does not, each with its exchange. -/
theorem witness_CleanTransactionDeliversTheReading : ∀ f ∈ [frameA5, { frameA5 with b4 := 0xBF#8 }],
    ∃ (s : State) (e : Exchange) (rest : List Inputs), StateInv s ∧ s.phase = .idle ∧ e.clean s.cfg ∧
    e.cells.map (fun c => c.bit s.cfg) = (List.range 40).map f.wireBit ∧ s.stim = e.inputs ++ rest := fun f hf =>
  ⟨inv_ .idle ((exchangeOf f).inputs ++ []), exchangeOf f, [], inv_of_phase _ _, rfl, exchangeOf_clean f,
    by revert f; decide, rfl⟩

theorem witness_frames_match_and_not :
    dataSum frameA5 = frameA5.b4 ∧ dataSum { frameA5 with b4 := 0xBF#8 } ≠ ({ frameA5 with b4 := 0xBF#8 } : Frame).b4 := by decide

theorem witness_FiringTogglesAndShowsTheDigit :
    (∃ s t, step s = .next t ∧ s.cfg.display = .reading ∧ s.displayFires = true ∧ t.digitPos = .tens) ∧
    (∃ s t, step s = .next t ∧ s.cfg.display = .counter ∧ s.displayFires = true ∧ t.digitPos = .units) ∧
    (∃ s t, step s = .next t ∧ s.displayFires = false) ∧
    (∃ s f, State.firing s = some f ∧ f.digit = 2 ∧ f.digit ≤ 9) :=
  ⟨⟨{ readDone with stim := [{ idleIn with preReq := true, fire := true }] }, _, rfl, rfl, by decide, by decide⟩,
   ⟨{ readDone with
        cfg := { Params.tiny with display := .counter }, digitPos := .tens, stim := [{ idleIn with preReq := true, fire := true }] },
     _, rfl, rfl, by decide, by decide⟩,
   ⟨inv_ .bitLo [{ idleIn with preReq := true, fire := true }], _, rfl, by decide⟩,
   ⟨{ readDone with stim := [{ idleIn with preReq := true, fire := true }] }, _, rfl, by decide, by decide⟩⟩

theorem witness_HostKeepsItsHandshake :
    (∃ y z, System.step y = .next z ∧ y.presented.preGnt = true ∧ y.presented.frozen = true) ∧
    (∃ y z, System.step y = .next z ∧ y.presented.preGnt = true ∧ y.presented.inputs.rst = true) ∧
    (∃ y z n, System.step y = .next z ∧ y.host.start = false ∧ z.host.start = true ∧ z.sinceEnd = some n) ∧
    (∃ y z, System.step y = .next z ∧ y.host.start = true ∧ z.host.start = false) :=
  ⟨⟨asking, _, rfl, by decide, by decide⟩,
   ⟨{ asking with rsts := [0] }, _, rfl, by decide, by decide⟩,
   ⟨{ asking with host := .sleep 0, pre := [], sinceEnd := some 4 }, _, 5, rfl, by decide, by decide, by decide⟩,
   ⟨{ asking with core := inv_ .reqLow [], pre := [] }, _, rfl, by decide, by decide⟩⟩

/-- Three cycles of sleep; at the end of the last `start` rises, and stays down were the block busy. -/
theorem witness_HostWaitsTheSamplePeriod : tiny.outputs.busy = false ∧
    [(Option.some 1, tiny.outputs), (some 2, tiny.outputs)].length + 1 = asking.agents.samplePeriod ∧
    mayRaise asking.agents (some 4) tiny.outputs = true ∧ mayRaise asking.agents (some 4) (inv_ .reqLow []).outputs = false := by
  decide

end Sys2Proof.Tests
end

section
/-! The registers right after reset (10_state.md, R38). -/

namespace Sys2Proof.Machine

/-- Settles O8: `State.reset` is R38's table field by field, and `Frame.zero` is the frame of five zero bytes. -/
theorem registersAfterReset : Obligations.RegistersAfterReset := by
  have hframe : State.reset.frame = ⟨0#8, 0#8, 0#8, 0#8, 0#8⟩ := rfl
  exact ⟨rfl, rfl, hframe, rfl, rfl, rfl, rfl, rfl, rfl, rfl, rfl, rfl⟩

end Sys2Proof.Machine
end

section
/-! Replacing the inputs to come: a cycle's next state is the same under any two inputs that agree where it looks
(46_cycle_step.md R180), and `start` is looked at in an enabled `IDLE` cycle alone (30_encoding.md R98). -/

namespace Sys2Proof.Machine

/-- The same registers before other inputs to come. -/
def State.withStim (s : State) (xs : List Inputs) : State := { s with stim := xs }

/-! ### The operations do not touch the inputs to come -/

/-- A wait looks at the line; whatever else it looks at is its exit's. -/
theorem awaitLeave_withStim {l : Level} {onOk : State → State} {s : State} {xs : List Inputs}
    (hline : (s.withStim xs).lineSample = s.lineSample)
    (hok : s.lineSample ≠ l →
      onOk (State.withStim { s with pollCnt := 0 } xs) = (onOk { s with pollCnt := 0 }).withStim xs) :
    awaitLeave l onOk (s.withStim xs) = (awaitLeave l onOk s).withStim xs := by
  have hpoll : poll l (s.withStim xs) = poll l s := by simp only [poll, hline]; rfl
  unfold awaitLeave
  rw [hpoll]
  cases hp : poll l s with
  | ok => exact hok ((poll_ok_iff l s).1 hp)
  | timeout => rfl
  | again => rfl

theorem captureBit_withStim (b : Bool) (s : State) (xs : List Inputs) :
    captureBit b (s.withStim xs) = (captureBit b s).withStim xs := by
  unfold captureBit advanceBit
  rw [apply_ite (State.withStim · xs)]; rfl

theorem judgeFrame_withStim (s : State) (xs : List Inputs) :
    judgeFrame (s.withStim xs) = (judgeFrame s).withStim xs := by
  unfold judgeFrame
  rw [apply_ite (State.withStim · xs)]; rfl

theorem measuredBit_withStim {s : State} {xs : List Inputs} (htick : (s.withStim xs).inputs.tick = s.inputs.tick) :
    (s.withStim xs).measuredBit = s.measuredBit := by
  simp only [State.measuredBit, State.elapsedTicks, State.tickSample, htick]; rfl

theorem stampStart_withStim {s : State} {xs : List Inputs} (htick : (s.withStim xs).inputs.tick = s.inputs.tick) :
    stampStart (s.withStim xs) = (stampStart s).withStim xs := by
  simp only [stampStart, State.tickSample, htick]; rfl

/-- Outside `IDLE` a phase looks at no input but `line_in` and `tick` (R104, R122). -/
theorem phaseOp_withStim {s : State} {xs : List Inputs} (hbusy : s.phase ≠ .idle)
    (hline : (s.withStim xs).inputs.line = s.inputs.line) (htick : (s.withStim xs).inputs.tick = s.inputs.tick) :
    phaseOp (s.withStim xs) = (phaseOp s).withStim xs := by
  have hphase : (s.withStim xs).phase = s.phase := rfl
  unfold phaseOp
  rw [hphase]
  cases h : s.phase with
  | idle => exact absurd h hbusy
  | reqLow => dsimp only; rw [apply_ite (State.withStim · xs)]; rfl
  | hs1 => exact awaitLeave_withStim hline fun _ => rfl
  | hs2 => exact awaitLeave_withStim hline fun _ => rfl
  | hs3 => exact awaitLeave_withStim hline fun _ => rfl
  | bitLo => exact awaitLeave_withStim hline fun _ => stampStart_withStim htick
  | bitHi =>
    simp only [measuredBit_withStim htick]
    exact awaitLeave_withStim hline fun _ => captureBit_withStim _ _ _
  | check => exact judgeFrame_withStim s xs

/-! ### The edge -/

/-- Two inputs with the same reset, request and display choice give the same next state when, in an enabled cycle, the
operation of the phase does not tell them apart. -/
theorem step_withStim {s : State} {x y : Inputs} {rest : List Inputs} (hs : s.stim = x :: rest) (hrst : y.rst = x.rst)
    (hpre : y.preReq = x.preReq) (hfire : y.fire = x.fire)
    (hop : s.inputs.rst = false → s.frozen = false →
      phaseOp (s.withStim (y :: rest)) = (phaseOp s).withStim (y :: rest)) :
    step (s.withStim (y :: rest)) = step s := by
  have hx : s.inputs = x := inputs_cons s x rest hs
  have hy : (s.withStim (y :: rest)).inputs = y := rfl
  have hreset : (s.withStim (y :: rest)).inputs.rst = s.inputs.rst := by rw [hx, hy, hrst]
  have hgnt : (s.withStim (y :: rest)).preGnt = s.preGnt := by
    simp only [State.preGnt, State.preReq, hx, hy, hpre]; rfl
  have hfrozen : (s.withStim (y :: rest)).frozen = s.frozen := by simp only [State.frozen, hreset, hgnt]
  have hdigit : (s.withStim (y :: rest)).digitAfter = s.digitAfter := by
    simp only [State.digitAfter, State.displayFires, hgnt, hx, hy, hfire]; rfl
  have hclose (t : State) : closeEdge (s.withStim (y :: rest)) (t.withStim (y :: rest)) = closeEdge s t := by
    simp only [closeEdge, hdigit, hs]; rfl
  cases hr : s.inputs.rst with
  | true => rw [step_reset hr, step_reset (hreset.trans hr), ← hclose]; rfl
  | false =>
    cases hf : s.frozen with
    | true => rw [step_frozen hf, step_frozen (hfrozen.trans hf), hclose]
    | false =>
      rw [step_enabled hr hf (exec_fetched s), step_enabled (hreset.trans hr) (hfrozen.trans hf) (exec_fetched _),
        hop hr hf, hclose]

/-- Settles O17: `start` is neither the reset, the request nor the display's choice, and no phase but an enabled `IDLE`
looks at it. -/
theorem startIsIgnoredWhenBusyOrFrozen : Obligations.StartIsIgnoredWhenBusyOrFrozen := by
  intro s x rest b hs hignored
  have hx : s.inputs = x := inputs_cons s x rest hs
  refine step_withStim (y := { x with start := b }) hs rfl rfl rfl fun _ hf => ?_
  have hbusy : s.phase ≠ .idle := hignored.resolve_right (by simp [hf])
  exact phaseOp_withStim hbusy (by rw [hx]; rfl) (by rw [hx]; rfl)

end Sys2Proof.Machine
end

section
/-! The poll that counts (40_pulse_waiter.md R113): the five waits are one poll primitive with five exits, and under the
invariant its count does not wrap (R17). -/

namespace Sys2Proof.Machine

/-- Legal counts fit the `CNT_W` bits of their counters (R9, R20). -/
theorem counts_fit_of_legal {p : Params} (h : p.legal = true) :
    p.holdCycles < 2 ^ p.cntW ∧ p.pollBudget < 2 ^ p.cntW := by
  simp only [Params.legal, Bool.and_eq_true, decide_eq_true_eq] at h
  exact max_lt_iff.1 h.2

/-- In a state of the invariant `poll_cnt` counts without a wrap (R17). -/
theorem countUp_pollCnt_of_inv {s : State} (h : StateInv s) : countUp s.cfg s.pollCnt = s.pollCnt + 1 :=
  countUp_of_lt h.pollBound (counts_fit_of_legal h.legal).2

/-- A poll that reads the level being left and leaves budget over counts it, whatever the exit of the wait is (R113). -/
theorem awaitLeave_of_again {l : Level} {onOk : State → State} {s : State} (hline : s.lineSample = l)
    (hbudget : s.pollCnt + 1 ≠ s.cfg.pollBudget) :
    awaitLeave l onOk s = { s with pollCnt := countUp s.cfg s.pollCnt } := by
  simp only [awaitLeave, (poll_again_iff l s).2 ⟨hline, hbudget⟩]

/-- Each of the five waits is the poll primitive with the level it leaves and an exit of its own (R125, R126, R127, R141,
R142). -/
theorem exec_wait {i : Instr} {l : Level}
    (h : (i, l) ∈ [(Instr.hs1, Level.high), (.hs2, .low), (.hs3, .high), (.bitLo, .low), (.bitHi, .high)]) (s : State) :
    ∃ onOk, exec i s = .next (awaitLeave l onOk s) := by
  simp only [List.mem_cons, Prod.mk.injEq, List.not_mem_nil, or_false] at h
  obtain ⟨rfl, rfl⟩ | ⟨rfl, rfl⟩ | ⟨rfl, rfl⟩ | ⟨rfl, rfl⟩ | ⟨rfl, rfl⟩ := h
  · exact ⟨goto .hs2, rfl⟩
  · exact ⟨goto .hs3, rfl⟩
  · exact ⟨enterCapture, rfl⟩
  · exact ⟨stampStart, rfl⟩
  · exact ⟨captureBit s.measuredBit, rfl⟩

/-- Settles O48: the wait is a poll of its level, the poll counts, and the count does not wrap. -/
theorem pollThatFindsNoChangeCountsOne : Obligations.PollThatFindsNoChangeCountsOne := by
  intro s i l hwait hinv hline hbudget
  obtain ⟨onOk, hexec⟩ := exec_wait hwait s
  rw [hexec, awaitLeave_of_again hline hbudget, countUp_pollCnt_of_inv hinv]

end Sys2Proof.Machine
end

section
/-! What `IDLE` does with the command it looks at (30_encoding.md R82; 41_transaction_control.md R120, R121). -/

namespace Sys2Proof.Machine

/-- The CMD word is START exactly when `start` is 1 at this edge (R82). -/
theorem cmdCode_eq_start_iff (s : State) : s.cmdCode = 0b1#1 ↔ s.inputs.start = true := by
  cases h : s.inputs.start <;> simp [State.cmdCode, h]

/-- `IDLE` under `start` = 1 takes the START (R121). -/
theorem exec_idle_of_start {s : State} (h : s.inputs.start = true) : exec .idle s = .next (beginTransaction s) :=
  congrArg Host.Outcome.next (if_pos ((cmdCode_eq_start_iff s).2 h))

/-- The row START, when the block is in `IDLE`, begins the transaction (R121). -/
theorem exec_start_of_idle {s : State} (h : s.phase = .idle) : exec .start s = .next (beginTransaction s) :=
  congrArg Host.Outcome.next (if_pos h)

/-- Settles O13: without `start` the CMD word is not START, so `IDLE` keeps the state. -/
theorem idleWithoutCommandChangesNothing : Obligations.IdleWithoutCommandChangesNothing := by
  intro s hstart
  have hcmd : s.cmdCode ≠ 0b1#1 := fun h => Bool.false_ne_true (hstart.symm.trans ((cmdCode_eq_start_iff s).1 h))
  exact congrArg Host.Outcome.next (if_neg hcmd)

/-- Settles O15: the row and the `IDLE` operation both answer `beginTransaction`, whose fields are those of R121. -/
theorem startBeginsATransaction : Obligations.StartBeginsATransaction :=
  fun _ => ⟨exec_start_of_idle, exec_idle_of_start⟩

end Sys2Proof.Machine
end

section
/-! The hold of the request and the three waits of the handshake, each as its whole next state (41_transaction_control.md
R123 to R127; 40_pulse_waiter.md R110 to R113, R131). -/

namespace Sys2Proof.Machine

/-- A sample is LOW exactly when it differs from HIGH, the level that `HS1`, `HS3` and `BIT_HI` leave (R94). -/
theorem line_eq_low_iff (s : State) : s.inputs.line = .low ↔ s.lineSample ≠ .high := by
  cases h : s.inputs.line <;> simp [State.lineSample, h]

/-- A sample is HIGH exactly when it differs from LOW, the level that `HS2` and `BIT_LO` leave (R94). -/
theorem line_eq_high_iff (s : State) : s.inputs.line = .high ↔ s.lineSample ≠ .low := by
  cases h : s.inputs.line <;> simp [State.lineSample, h]

/-- One poll of a wait that leaves the level `l` for the level `m`: the exit, `raise Timeout()`, or one more count
(R110 to R113, R131; the modulus is log entry 3). -/
theorem awaitLeave_eq_ite {l m : Level} {s : State} (hlevel : s.inputs.line = m ↔ s.lineSample ≠ l)
    (onOk : State → State) :
    awaitLeave l onOk s =
      if s.inputs.line = m then onOk { s with pollCnt := 0 }
      else if s.pollCnt + 1 = s.cfg.pollBudget then
        { s with guard := false, outcome := .timeout, lineOe := true, lineOut := .high, phase := .idle }
      else { s with pollCnt := (s.pollCnt + 1) % 2 ^ s.cfg.cntW } := by
  obtain ⟨hleft, hnext⟩ | ⟨hstays, hspent, hnext⟩ | ⟨hstays, hbudget, hnext⟩ := awaitLeave_cases l onOk s
  · rw [hnext, if_pos (hlevel.2 hleft)]
  · rw [hnext, if_neg fun h => hlevel.1 h hstays, if_pos hspent]; rfl
  · rw [hnext, if_neg fun h => hlevel.1 h hstays, if_neg hbudget]; rfl

/-- Settles O18: the hold ends in `releaseLine` or counts, and `countUp` is the count modulo 2^CNT_W. -/
theorem reqLowCountsThenReleases : Obligations.ReqLowCountsThenReleases := by
  intro s
  by_cases hlast : s.holdCnt + 1 = s.cfg.holdCycles
  · have hrelease : exec .reqLow s = .next (releaseLine s) := congrArg Host.Outcome.next (if_pos hlast)
    rw [hrelease, if_pos hlast]; rfl
  · have hcount : exec .reqLow s = .next { s with holdCnt := countUp s.cfg s.holdCnt } :=
      congrArg Host.Outcome.next (if_neg hlast)
    rw [hcount, if_neg hlast]; rfl

/-- Settles O19: `HS1` is the poll that leaves HIGH, with exit to `HS2`. -/
theorem hs1LeavesHigh : Obligations.Hs1LeavesHigh :=
  fun s => congrArg Host.Outcome.next (awaitLeave_eq_ite (line_eq_low_iff s) (goto .hs2))

/-- Settles O20: `HS2` is the poll that leaves LOW, with exit to `HS3`. -/
theorem hs2LeavesLow : Obligations.Hs2LeavesLow :=
  fun s => congrArg Host.Outcome.next (awaitLeave_eq_ite (line_eq_high_iff s) (goto .hs3))

/-- Settles O21: `HS3` is the poll that leaves HIGH, and its exit enters the capture loop with the guard acquired (R170). -/
theorem hs3LeavesHighAndAcquires : Obligations.Hs3LeavesHighAndAcquires :=
  fun s => congrArg Host.Outcome.next (awaitLeave_eq_ite (line_eq_low_iff s) enterCapture)

end Sys2Proof.Machine
end

section
/-! The bits of a frame on the wire (42_bit_capture.md R146; 20_memory.md R61): a frame as five numbered bytes, one store,
and a run of stores. -/

namespace Sys2Proof.Machine

/-- Byte number `i` of a frame; past the fifth there is none, and the value is 0. -/
def byteOf (f : Frame) : Nat → Byte
  | 0 => f.b0
  | 1 => f.b1
  | 2 => f.b2
  | 3 => f.b3
  | 4 => f.b4
  | _ => 0#8

theorem getElem?_bytes (f : Frame) {i : Nat} (hi : i < 5) : [f.b0, f.b1, f.b2, f.b3, f.b4][i]? = some (byteOf f i) :=
  match i, hi with
  | 0, _ | 1, _ | 2, _ | 3, _ | 4, _ => rfl

theorem wireBit_eq_getLsbD (f : Frame) (n : Nat) : f.wireBit n = (byteOf f (n / 8)).getLsbD (7 - n % 8) := by
  unfold Frame.wireBit
  generalize n / 8 = i
  match i with
  | 0 | 1 | 2 | 3 | 4 => rfl
  | _ + 5 => exact BitVec.getLsbD_zero.symm

/-- Bit `k` of byte `i` is on the wire as number `8 i + (7 - k)`. -/
theorem getLsbD_byteOf (f : Frame) (i : Nat) {k : Nat} (hk : k < 8) :
    (byteOf f i).getLsbD k = f.wireBit (8 * i + (7 - k)) := by
  rw [wireBit_eq_getLsbD, show (8 * i + (7 - k)) / 8 = i by omega, show 7 - (8 * i + (7 - k)) % 8 = k by omega]

/-- A frame is its 40 wire bits. -/
theorem frame_eq_of_wireBit_eq {f g : Frame} (h : ∀ j, j < 40 → f.wireBit j = g.wireBit j) : f = g := by
  have hbyte (i : Nat) (hi : i < 5) : byteOf f i = byteOf g i := by
    refine BitVec.eq_of_getLsbD_eq fun k hk => ?_
    rw [getLsbD_byteOf f i hk, getLsbD_byteOf g i hk, h _ (by omega)]
  cases f
  cases g
  rw [Frame.mk.injEq]
  exact ⟨hbyte 0 (by decide), hbyte 1 (by decide), hbyte 2 (by decide), hbyte 3 (by decide), hbyte 4 (by decide)⟩

/-! ### One store -/

theorem getLsbD_setBit (x : Byte) {k : Nat} (hk : k < 8) (b : Bool) (i : Nat) :
    (setBit x k b).getLsbD i = if i = k then b else x.getLsbD i := by
  have hmask : (1#8 <<< k).getLsbD i = decide (k = i) :=
    (BitVec.getLsbD_twoPow k i).trans (by simp [hk])
  by_cases hi : i = k
  · cases b with
    | false => simp [setBit, hi]
    | true => simp [setBit, hi, hk]
  · cases b with
    | false => simpa [setBit, hmask, hi, Ne.symm hi] using BitVec.lt_of_getLsbD
    | true => simp [setBit, hmask, hi, Ne.symm hi]

theorem byteOf_storeBit (f : Frame) {n : Nat} (hn : n < 40) (b : Bool) (i : Nat) :
    byteOf (storeBit f n b) i = if i = n / 8 then setBit (byteOf f i) (7 - n % 8) b else byteOf f i := by
  have hlast : n / 8 < 5 := by omega
  unfold storeBit
  generalize n / 8 = q at hlast ⊢
  match q, hlast with
  | 0, _ | 1, _ | 2, _ | 3, _ | 4, _ =>
    match i with
    | 0 | 1 | 2 | 3 | 4 => rfl
    | _ + 5 => exact (if_neg (by omega)).symm

/-- The store of bit `n` writes wire bit `n` and no other (R146). -/
theorem wireBit_storeBit (f : Frame) {n : Nat} (hn : n < 40) (b : Bool) (j : Nat) :
    (storeBit f n b).wireBit j = if j = n then b else f.wireBit j := by
  have hk : 7 - n % 8 < 8 := by omega
  rw [wireBit_eq_getLsbD, wireBit_eq_getLsbD, byteOf_storeBit f hn]
  by_cases hbyte : j / 8 = n / 8
  · rw [if_pos hbyte, getLsbD_setBit _ hk]
    exact ite_congr (propext (by omega)) (fun _ => rfl) fun _ => rfl
  · rw [if_neg hbyte, if_neg fun h : j = n => hbyte (congrArg (· / 8) h)]

/-- Settles O24: a store writes one bit of one byte, and byte `n div 8` is there for every `n` below 40. -/
theorem storeBitWritesOneFrameBit : Obligations.StoreBitWritesOneFrameBit := by
  intro f n b hn
  refine ⟨fun j _ => wireBit_storeBit f hn b j, ?_⟩
  rw [getElem?_bytes f (by omega), wireBit_eq_getLsbD]
  rfl

/-! ### A run of stores -/

/-- The bits of a list stored one after the other, from bit number `n` on. -/
def storeBits (f : Frame) (n : Nat) : List Bool → Frame
  | [] => f
  | b :: bs => storeBits (storeBit f n b) (n + 1) bs

theorem wireBit_storeBits (f : Frame) (n : Nat) (bs : List Bool) (hn : n + bs.length ≤ 40) (j : Nat) :
    (storeBits f n bs).wireBit j = if n ≤ j then bs[j - n]?.getD (f.wireBit j) else f.wireBit j := by
  induction bs generalizing f n with
  | nil => simp [storeBits]
  | cons b bs ih =>
    rw [List.length_cons] at hn
    rw [storeBits, ih _ _ (by omega), wireBit_storeBit f (by omega)]
    obtain hj | rfl | hj := Nat.lt_trichotomy j n
    · rw [if_neg (by omega), if_neg (by omega), if_neg (by omega)]
    · rw [if_neg (by omega), if_pos rfl, if_pos le_rfl, Nat.sub_self]
      rfl
    · rw [if_pos (by omega), if_neg (by omega), if_pos (by omega), show j - n = j - (n + 1) + 1 by omega,
        List.getElem?_cons_succ]

/-- The 40 wire bits of a frame, stored from bit number 0 on, leave that frame whatever stood there before. -/
theorem storeBits_wireBits (f g : Frame) : storeBits g 0 ((List.range 40).map f.wireBit) = f := by
  refine frame_eq_of_wireBit_eq fun j hj => ?_
  rw [wireBit_storeBits g 0 _ (by simp), if_pos (Nat.zero_le j)]
  simp [hj]

end Sys2Proof.Machine
end

section
/-! The measure of a pulse (42_bit_capture.md R143 to R145): elapsed ticks modulo 2^TICK_W, and the strict threshold. -/

namespace Sys2Proof.Machine

/-- Only the low `TICK_W` bits of what was stamped count (R143; log entry 4). -/
theorem elapsedTicks_of_stamp {s : State} {start : Nat} (h : s.tStart = start % 2 ^ s.cfg.tickW) :
    s.elapsedTicks = BitVec.ofNat s.cfg.tickW s.inputs.tick - BitVec.ofNat s.cfg.tickW start := by
  have hstamp : BitVec.ofNat s.cfg.tickW s.tStart = BitVec.ofNat s.cfg.tickW start :=
    BitVec.eq_of_toNat_eq (by simp [h])
  rw [State.elapsedTicks, State.tickSample, hstamp]

/-- Settles O28: modulo 2^TICK_W the tick is the stamp plus `d`, so their difference is `d`. -/
theorem elapsedTicksSurviveTheWrap : Obligations.ElapsedTicksSurviveTheWrap := by
  intro s start d hstart htick
  have htick' : BitVec.ofNat s.cfg.tickW s.inputs.tick = BitVec.ofNat s.cfg.tickW d + BitVec.ofNat s.cfg.tickW start := by
    rw [← BitVec.ofNat_add, Nat.add_comm d]
    exact BitVec.eq_of_toNat_eq (by simpa using htick)
  have hdt : s.elapsedTicks.toNat = d % 2 ^ s.cfg.tickW := by
    rw [elapsedTicks_of_stamp hstart, htick', BitVec.add_sub_cancel, BitVec.toNat_ofNat]
  exact ⟨hdt, fun hd => hdt.trans (Nat.mod_eq_of_lt hd)⟩

/-- A width is read as 1 exactly when it is above the threshold (R145). -/
theorem isOne_iff (p : Params) (dt : Nat) : isOne p dt = true ↔ p.threshUs * p.tickDen < dt * p.tickNum :=
  decide_eq_true_iff

/-- Settles O27: a width that is not above the threshold, below or equal, is not read as 1. -/
theorem thresholdIsStrict : Obligations.ThresholdIsStrict := by
  intro p dt
  have hzero (h : dt * p.tickNum ≤ p.threshUs * p.tickDen) : isOne p dt = false :=
    Bool.eq_false_iff.2 fun hone => Nat.not_lt.2 h ((isOne_iff p dt).1 hone)
  exact ⟨(isOne_iff p dt).2, fun h => hzero h.le, fun h => hzero h.le⟩

end Sys2Proof.Machine
end

section
/-! The two waits of the capture loop, each as its whole next state (42_bit_capture.md R141 to R147). -/

namespace Sys2Proof.Machine

/-- Settles O22: `BIT_LO` is the poll that leaves LOW, and its exit stamps the tick of the same edge. -/
theorem bitLoStampsTheRise : Obligations.BitLoStampsTheRise :=
  fun s => congrArg Host.Outcome.next (awaitLeave_eq_ite (line_eq_high_iff s) stampStart)

/-- Settles O23: `BIT_HI` is the poll that leaves HIGH, and its exit captures the measured bit. -/
theorem bitHiCapturesTheBit : Obligations.BitHiCapturesTheBit :=
  fun s => congrArg Host.Outcome.next (awaitLeave_eq_ite (line_eq_low_iff s) (captureBit s.measuredBit))

/-- At the fall of the line `BIT_HI` captures the measured bit, whatever was counted before (R142). -/
theorem exec_bitHi_of_low {s : State} (h : s.inputs.line = .low) : exec .bitHi s = .next (captureBit s.measuredBit s) :=
  congrArg Host.Outcome.next ((awaitLeave_eq_ite (line_eq_low_iff s) (captureBit s.measuredBit)).trans (if_pos h))

/-- At the rise of the line `BIT_LO` stamps the tick (R141). -/
theorem exec_bitLo_of_high {s : State} (h : s.inputs.line = .high) :
    exec .bitLo s = .next { s with phase := .bitHi, pollCnt := 0, tStart := s.inputs.tick % 2 ^ s.cfg.tickW } :=
  (bitLoStampsTheRise s).trans (congrArg Host.Outcome.next (if_pos h))

end Sys2Proof.Machine
end

section
/-! One clean cell under the guard (42_bit_capture.md R149, R152): a wait takes one edge for each sample it holds through
and one for its exit, and the guard masks every request. -/

namespace Sys2Proof.Machine

/-- Under the guard an edge without reset is enabled: the operation of the phase runs and no firing acts (R152, R174). -/
theorem step_guarded {s t : State} {x : Inputs} {rest : List Inputs} (hguard : s.guard = true) (hs : s.stim = x :: rest)
    (hrst : x.rst = false) (hexec : exec s.fetched s = .next t) :
    step s = .next { t with digitPos := s.digitPos, stim := rest, cycle := s.cycle + 1 } := by
  have hfrozen : s.frozen = false := by simp [frozen_eq_taken hs hrst, hguard]
  have hreset : s.inputs.rst = false := by rw [inputs_cons s x rest hs, hrst]
  rw [step_enabled hreset hfrozen hexec, closeEdge, digitAfter_enabled hreset hfrozen, hs, List.tail_cons]

/-- The row `i` is the poll primitive that leaves the level `l`, with an exit of its own (R94, R110). -/
def IsWait (i : Instr) (l : Level) : Prop := ∀ s : State, ∃ onOk, exec i s = .next (awaitLeave l onOk s)

theorem isWait_bitLo : IsWait .bitLo .low := exec_wait (by simp)
theorem isWait_bitHi : IsWait .bitHi .high := exec_wait (by simp)

/-- A poll under the guard that finds the level being left, with budget over, counts one and does nothing else (R113). -/
theorem step_guarded_of_again {s : State} {i : Instr} {l : Level} {x : Inputs} {rest : List Inputs}
    (hwait : IsWait i l) (hfetch : s.fetched = i) (hlegal : s.cfg.legal = true) (hguard : s.guard = true)
    (hs : s.stim = x :: rest)
    (hx : x.rst = false ∧ x.line = l) (hbudget : s.pollCnt + 1 < s.cfg.pollBudget) :
    step s = .next { s with pollCnt := s.pollCnt + 1, stim := rest, cycle := s.cycle + 1 } := by
  obtain ⟨hrst, hline⟩ := hx
  obtain ⟨onOk, hexec⟩ := hwait s
  have hsample : s.lineSample = l := by rw [State.lineSample, inputs_cons s x rest hs, hline]
  have hcount : countUp s.cfg s.pollCnt = s.pollCnt + 1 :=
    countUp_of_lt (Nat.lt_of_succ_lt hbudget) (counts_fit_of_legal hlegal).2
  rw [awaitLeave_of_again hsample hbudget.ne, hcount, ← hfetch] at hexec
  exact step_guarded hguard hs hrst hexec

/-- `s` when `n` of its polls have found no change: the count `n` on, `n` edges later. -/
def polled (s : State) (n : Nat) (xs : List Inputs) : State :=
  { s with pollCnt := s.pollCnt + n, stim := xs, cycle := s.cycle + n }

/-- The polls of a wait under the guard, one edge each, as long as the level stays and the budget is not spent (R113). -/
theorem runEdges_guarded_of_held {i : Instr} {l : Level} {held rest : List Inputs} {s : State}
    (hwait : IsWait i l) (hfetch : s.fetched = i) (hlegal : s.cfg.legal = true) (hguard : s.guard = true)
    (hs : s.stim = held ++ rest)
    (hheld : ∀ y ∈ held, y.rst = false ∧ y.line = l) (hbudget : s.pollCnt + held.length < s.cfg.pollBudget) :
    runEdges held.length s = .next (polled s held.length rest) := by
  induction held generalizing s with
  | nil => rw [List.nil_append] at hs; subst hs; rfl
  | cons y held ih =>
    obtain ⟨hy, hheld⟩ := List.forall_mem_cons.1 hheld
    rw [List.length_cons] at hbudget ⊢
    have hstep : step s = .next (polled s 1 (held ++ rest)) :=
      step_guarded_of_again hwait hfetch hlegal hguard hs hy (by omega)
    have hrun := ih (s := polled s 1 (held ++ rest)) hfetch hlegal hguard rfl hheld
      (show s.pollCnt + 1 + held.length < s.cfg.pollBudget by omega)
    rw [runEdges_succ hstep, hrun]
    simp only [polled, Nat.add_assoc, Nat.add_comm 1]

/-- A wait under the guard from its first poll to the sample `x` that ends it: `t` is what the wait's operation makes of
the state at that edge (R110, R114). -/
theorem runEdges_guarded_wait {i : Instr} {l : Level} {held rest : List Inputs} {x : Inputs} {s t : State}
    (hwait : IsWait i l) (hfetch : s.fetched = i) (hlegal : s.cfg.legal = true) (hguard : s.guard = true) (hfresh : s.pollCnt = 0)
    (hs : s.stim = held ++ x :: rest) (hheld : ∀ y ∈ held, y.rst = false ∧ y.line = l)
    (hbudget : held.length < s.cfg.pollBudget) (hrst : x.rst = false)
    (hexit : exec i (polled s held.length (x :: rest)) = .next t) :
    runEdges (held.length + 1) s =
      .next { t with digitPos := s.digitPos, stim := rest, cycle := s.cycle + (held.length + 1) } := by
  have hpolls := runEdges_guarded_of_held hwait hfetch hlegal hguard hs hheld (by omega)
  have hstep := step_guarded (s := polled s held.length (x :: rest)) hguard rfl hrst (hfetch ▸ hexit)
  rw [runEdges_add hpolls, runEdges_succ hstep, runEdges_zero]
  rfl

/-! ### The cell -/

/-- The loop is about to poll the LOW of a cell: what one cell needs of the state and leaves for the next. -/
structure AtCell (s : State) : Prop where
  legal : s.cfg.legal = true
  guarded : s.guard = true
  polls : s.phase = .bitLo
  fresh : s.pollCnt = 0

theorem atCell_of_inv {s : State} (hinv : StateInv s) (hphase : s.phase = .bitLo) (hfresh : s.pollCnt = 0) : AtCell s where
  legal := hinv.legal
  guarded := by rw [hinv.guardWindow, hphase]; rfl
  polls := hphase
  fresh := hfresh

/-- The state after the rise of a cell: `t_start` stamped, the HIGH pulse to come. -/
def afterRise (s : State) (c : CellSamples) (xs : List Inputs) : State :=
  { s with phase := .bitHi, tStart := c.rise.tick % 2 ^ s.cfg.tickW, stim := xs, cycle := s.cycle + (c.lows.length + 1) }

/-- The state after a cell: its bit captured, `t_start` at its rise, its samples used up. -/
def afterCell (s : State) (c : CellSamples) (rest : List Inputs) : State :=
  { captureBit (c.bit s.cfg) s with
    tStart := c.rise.tick % 2 ^ s.cfg.tickW, stim := rest, cycle := s.cycle + c.inputs.length }

theorem CellSamples.length_inputs (c : CellSamples) : c.inputs.length = c.lows.length + 1 + (c.highs.length + 1) := by
  simp only [CellSamples.inputs, List.length_append, List.length_cons, List.length_nil, Nat.add_assoc, Nat.add_comm 1]

/-- The bit measured at the fall, with the stamp of the rise, is the bit of the cell (R143, R145). -/
theorem measuredBit_of_stamp {s : State} {c : CellSamples} (hstart : s.tStart = c.rise.tick % 2 ^ s.cfg.tickW)
    (hfall : s.inputs = c.fall) : s.measuredBit = c.bit s.cfg := by
  rw [State.measuredBit, elapsedTicks_of_stamp hstart, hfall]
  rfl

/-- The capture of a bit overwrites the phase and the count of the wait, and looks at neither. -/
theorem captureBit_afterRise (b : Bool) (s : State) (c : CellSamples) (n : Nat) (xs ys : List Inputs) :
    captureBit b (polled (afterRise s c xs) n ys) =
      { captureBit b s with
        tStart := c.rise.tick % 2 ^ s.cfg.tickW, stim := ys, cycle := s.cycle + (c.lows.length + 1) + n } := by
  obtain ⟨hlast, hcapture⟩ | ⟨hmore, hcapture⟩ := captureBit_cases b s
  · rw [hcapture]
    exact if_pos hlast
  · rw [hcapture]
    exact if_neg hmore

theorem captureBit_digitPos (b : Bool) (s : State) : (captureBit b s).digitPos = s.digitPos := by
  obtain ⟨-, hcapture⟩ | ⟨-, hcapture⟩ := captureBit_cases b s <;> rw [hcapture]

section
variable {s : State} {c : CellSamples} {rest : List Inputs}

theorem runEdges_cellLow (hat : AtCell s) (hc : c.clean s.cfg) (hs : s.stim = c.lows ++ c.rise :: rest) :
    runEdges (c.lows.length + 1) s = .next (afterRise s c rest) := by
  obtain ⟨hrst, hline⟩ := hc.rises
  have hexit := exec_bitLo_of_high (s := polled s c.lows.length (c.rise :: rest)) hline
  rw [runEdges_guarded_wait isWait_bitLo (fetched_bitLo hat.polls) hat.legal hat.guarded hat.fresh hs hc.low hc.lowBudget hrst
    hexit, afterRise, ← hat.fresh]
  rfl

theorem runEdges_cellHigh (hat : AtCell s) (hc : c.clean s.cfg) :
    runEdges (c.highs.length + 1) (afterRise s c (c.highs ++ c.fall :: rest)) = .next (afterCell s c rest) := by
  obtain ⟨hrst, hline⟩ := hc.falls
  have hexit := exec_bitHi_of_low
    (s := polled (afterRise s c (c.highs ++ c.fall :: rest)) c.highs.length (c.fall :: rest)) hline
  rw [measuredBit_of_stamp (c := c) rfl rfl, captureBit_afterRise] at hexit
  have hrun := runEdges_guarded_wait (s := afterRise s c (c.highs ++ c.fall :: rest)) isWait_bitHi (fetched_bitHi rfl) hat.legal
    hat.guarded hat.fresh rfl hc.high hc.highBudget hrst hexit
  have hdigit : (afterRise s c (c.highs ++ c.fall :: rest)).digitPos = (captureBit (c.bit s.cfg) s).digitPos :=
    (captureBit_digitPos _ s).symm
  have hcycle : s.cycle + c.inputs.length = s.cycle + (c.lows.length + 1) + (c.highs.length + 1) := by
    rw [CellSamples.length_inputs]; omega
  rw [hrun, hdigit, afterCell, hcycle]
  rfl

/-- R149: one clean cell takes one edge per sample and leaves `afterCell`. -/
theorem runEdges_cell (hat : AtCell s) (hc : c.clean s.cfg) (hs : s.stim = c.inputs ++ rest) :
    runEdges c.inputs.length s = .next (afterCell s c rest) := by
  have hs' : s.stim = c.lows ++ c.rise :: (c.highs ++ c.fall :: rest) := by simpa [CellSamples.inputs] using hs
  rw [CellSamples.length_inputs, runEdges_add (runEdges_cellLow hat hc hs'), runEdges_cellHigh hat hc]

end

end Sys2Proof.Machine
end

section
/-! The round trip of the capture loop (42_bit_capture.md R151): clean cells up to bit number 39, one after the other. -/

namespace Sys2Proof.Machine

/-- The state after the loop: the bits of the cells stored from `bit_idx` on, the guard down, `t_start` at `ts`. -/
def afterLoop (s : State) (cs : List CellSamples) (ts : Nat) (rest : List Inputs) : State :=
  { s with
    phase := .check, bitIdx := 39#6, guard := false, pollCnt := 0, tStart := ts, stim := rest,
    frame := storeBits s.frame s.bitIdx.toNat (cs.map fun c => c.bit s.cfg),
    cycle := s.cycle + (cs.flatMap CellSamples.inputs).length }

/-- The cell of bit number 39 ends the loop (R147). -/
theorem afterCell_of_last {s : State} (hlast : s.bitIdx = 39#6) (c : CellSamples) (rest : List Inputs) :
    afterCell s c rest = afterLoop s [c] (c.rise.tick % 2 ^ s.cfg.tickW) rest := by
  obtain ⟨-, hcapture⟩ | ⟨hmore, -⟩ := captureBit_cases (c.bit s.cfg) s
  · rw [afterCell, afterLoop, hcapture, List.flatMap_singleton, ← hlast]
    rfl
  · exact absurd hlast hmore

/-! ### A cell before that of bit number 39 leaves the loop about to poll the next one (R147) -/

section
variable {s : State} {c : CellSamples} {xs : List Inputs} (hmore : s.bitIdx.toNat < 39)
include hmore

theorem afterCell_of_lt :
    afterCell s c xs =
      { s with
        phase := .bitLo, bitIdx := s.bitIdx + 1#6, pollCnt := 0, tStart := c.rise.tick % 2 ^ s.cfg.tickW, stim := xs,
        frame := storeBit s.frame s.bitIdx.toNat (c.bit s.cfg), cycle := s.cycle + c.inputs.length } := by
  obtain ⟨hlast, -⟩ | ⟨-, hcapture⟩ := captureBit_cases (c.bit s.cfg) s
  · exact absurd (congrArg BitVec.toNat hlast) hmore.ne
  · rw [afterCell, hcapture]

theorem afterCell_cfg : (afterCell s c xs).cfg = s.cfg := by rw [afterCell_of_lt hmore]

theorem afterCell_bitIdx : (afterCell s c xs).bitIdx.toNat = s.bitIdx.toNat + 1 := by
  rw [afterCell_of_lt hmore, BitVec.toNat_add]
  exact Nat.mod_eq_of_lt (show s.bitIdx.toNat + 1 < 2 ^ 6 by omega)

theorem atCell_afterCell (hat : AtCell s) : AtCell (afterCell s c xs) := by
  rw [afterCell_of_lt hmore]
  exact ⟨hat.legal, hat.guarded, rfl, rfl⟩

theorem afterLoop_afterCell (cs : List CellSamples) (ts : Nat) (rest : List Inputs) :
    afterLoop (afterCell s c xs) cs ts rest = afterLoop s (c :: cs) ts rest := by
  rw [afterLoop, afterCell_bitIdx hmore, afterCell_of_lt hmore, afterLoop, List.flatMap_cons, List.length_append,
    ← Nat.add_assoc]
  rfl

end

/-- Clean cells up to bit number 39, one edge per sample, leave `afterLoop`. -/
theorem runEdges_cells {s : State} {cs : List CellSamples} {rest : List Inputs} (hat : AtCell s)
    (hidx : s.bitIdx.toNat < 40) (hcount : s.bitIdx.toNat + cs.length = 40) (hclean : ∀ c ∈ cs, c.clean s.cfg)
    (hs : s.stim = cs.flatMap CellSamples.inputs ++ rest) :
    ∃ ts, runEdges (cs.flatMap CellSamples.inputs).length s = .next (afterLoop s cs ts rest) := by
  induction cs generalizing s with
  | nil => exact absurd hcount hidx.ne
  | cons c cs ih =>
    obtain ⟨hc, hclean⟩ := List.forall_mem_cons.1 hclean
    rw [List.length_cons] at hcount
    rw [List.flatMap_cons, List.append_assoc] at hs
    have hcell := runEdges_cell hat hc hs
    by_cases hmore : s.bitIdx.toNat < 39
    · obtain ⟨ts, hrun⟩ := ih (s := afterCell s c (cs.flatMap CellSamples.inputs ++ rest)) (atCell_afterCell hmore hat)
        (by rw [afterCell_bitIdx hmore]; omega) (by rw [afterCell_bitIdx hmore]; omega)
        (by rw [afterCell_cfg hmore]; exact hclean) rfl
      refine ⟨ts, ?_⟩
      rw [List.flatMap_cons, List.length_append, runEdges_add hcell, hrun, afterLoop_afterCell hmore]
    · have hlast : s.bitIdx = 39#6 := BitVec.eq_of_toNat_eq (show s.bitIdx.toNat = 39 by omega)
      obtain rfl : cs = [] := List.eq_nil_of_length_eq_zero (by omega)
      rw [afterCell_of_last hlast] at hcell
      rw [List.flatMap_singleton]
      exact ⟨_, hcell⟩

/-- Settles O56: the loop leaves the bits of the 40 cells in the frame registers, and these are the frame's wire bits. -/
theorem captureLoopRecoversTheFrame : Obligations.CaptureLoopRecoversTheFrame := by
  intro s f cs rest hinv hphase hidx hfresh hforty hclean hbits hs
  have hzero : s.bitIdx.toNat = 0 := by rw [hidx]; rfl
  have houtcome : s.outcome = .none := hinv.busyNone (by simp [hphase])
  have hframe : storeBits s.frame s.bitIdx.toNat (cs.map fun c => c.bit s.cfg) = f := by
    rw [hzero, hbits, storeBits_wireBits]
  obtain ⟨ts, hrun⟩ := runEdges_cells (atCell_of_inv hinv hphase hfresh) (by omega) (by omega) hclean hs
  exact ⟨_, hrun, rfl, hframe, rfl, rfl, houtcome, rfl, rfl, rfl⟩

end Sys2Proof.Machine
end

section
/-! The judgement of a frame by its sum in natural numbers (43_checksum_result.md R160 to R163). -/

namespace Sys2Proof.Machine

/-- R161: the byte sum, as a number, is the sum of the four bytes modulo 256. -/
theorem dataSum_toNat (f : Frame) :
    (dataSum f).toNat = (f.b0.toNat + f.b1.toNat + f.b2.toNat + f.b3.toNat) % 256 := by
  simp [dataSum]

theorem frameValid_iff_sum (f : Frame) :
    frameValid f = true ↔ (f.b0.toNat + f.b1.toNat + f.b2.toNat + f.b3.toNat) % 256 = f.b4.toNat := by
  rw [frameValid, decide_eq_true_iff, ← BitVec.toNat_inj, dataSum_toNat]

/-- Settles O29: `CHECK` raises Success on a valid frame and Checksum on any other, and validity is the equation of the sum. -/
theorem checkJudgesTheFrame : Obligations.CheckJudgesTheFrame := by
  intro s
  show Host.Outcome.next (judgeFrame s) = _
  obtain ⟨hvalid, hjudge⟩ | ⟨hinvalid, hjudge⟩ := judgeFrame_cases s
  · rw [hjudge, if_pos ((frameValid_iff_sum s.frame).1 hvalid)]
    rfl
  · rw [hjudge, if_neg (mt (frameValid_iff_sum s.frame).2 (Bool.eq_false_iff.1 hinvalid))]
    rfl

end Sys2Proof.Machine
end

section
/-! The grant and the freeze, the two sides of the guard (44_guard.md R173, R174): a granted cycle without reset is frozen,
and a cycle that is neither granted nor a reset runs the operation of its phase. -/

namespace Sys2Proof.Machine

/-- A cycle is frozen exactly when the request is granted and no reset overrides it (R174). -/
theorem frozen_iff_granted (s : State) : s.frozen = true ↔ s.preGnt = true ∧ s.inputs.rst = false := by
  rw [State.frozen, Bool.and_eq_true, Bool.not_eq_true', and_comm]

/-- A request is granted exactly when the guard is down (R36). -/
theorem granted_iff (s : State) : s.preGnt = true ↔ s.preReq = true ∧ s.guard = false := by
  rw [State.preGnt, Bool.and_eq_true, Bool.not_eq_true']

/-- The guard masks every request (R173). -/
theorem frozen_of_guard {s : State} (h : s.guard = true) : s.frozen = false := by
  simp [State.frozen, State.preGnt, h]

/-- The code in `phase` is a PHASE word, and it decodes to the operation that the edge fetches (R83, R180). -/
theorem decode_phase_code (s : State) : decode .phase s.phase.code.toNat = .ok s.fetched := by
  unfold State.fetched
  cases s.phase <;> rfl

/-- An enabled edge as its whole next state: the operation of the phase runs and no firing acts (R180, R174). -/
theorem step_of_enabled {s : State} (hrst : s.inputs.rst = false) (henabled : s.frozen = false) :
    step s = .next { phaseOp s with digitPos := s.digitPos, stim := s.stim.tail, cycle := s.cycle + 1 } := by
  rw [step_enabled hrst henabled (exec_fetched s), closeEdge, digitAfter_enabled hrst henabled]

/-- Settles O10: the grant is its definition, and a freeze is a grant without reset. -/
theorem grantIsRequestAndNotGuard : Obligations.GrantIsRequestAndNotGuard :=
  fun s => ⟨rfl, frozen_iff_granted s⟩

/-- Settles O9: a freeze closes the edge on the unchanged registers, the guard excludes it, and an enabled edge runs what
the code in `phase` decodes to. -/
theorem frozenCycleChangesNoRegister : Obligations.FrozenCycleChangesNoRegister := by
  intro s
  refine ⟨?_, step_frozen, frozen_of_guard, fun hrst henabled => ?_⟩
  · rw [frozen_iff_granted, granted_iff, and_comm]; rfl
  · exact ⟨s.fetched, phaseOp s, decode_phase_code s, exec_fetched s, step_of_enabled hrst henabled⟩

end Sys2Proof.Machine
end

section
/-! The outputs of a cycle (46_cycle_step.md R183): registers and `busy`, which no input reaches, and the grant, which
`pre_req` alone of the inputs reaches. -/

namespace Sys2Proof.Machine

/-- Of all the outputs only the grant looks at the inputs to come (R35, R36). -/
theorem outputs_withStim (s : State) (xs : List Inputs) :
    (s.withStim xs).outputs = { s.outputs with preGnt := (s.withStim xs).preGnt } := rfl

/-- Of this cycle's inputs the grant looks at the request alone (R36). -/
theorem preGnt_withStim (s : State) (x : Inputs) (rest : List Inputs) :
    (s.withStim (x :: rest)).preGnt = ((s.cfg.hasPreemptor && x.preReq) && !s.guard) := rfl

/-- Settles O11: the outputs are read off the registers and the grant, and the grant tells apart no two inputs with the same
request. -/
theorem outputsAreTheRegisters : Obligations.OutputsAreTheRegisters := by
  refine ⟨fun _ => rfl, fun s a b rest hreq => ?_⟩
  show (s.withStim (a :: rest)).outputs = (s.withStim (b :: rest)).outputs
  have hgnt : (s.withStim (a :: rest)).preGnt = (s.withStim (b :: rest)).preGnt := by
    rw [preGnt_withStim, preGnt_withStim, hreq]
  rw [outputs_withStim, outputs_withStim, hgnt]

end Sys2Proof.Machine
end

section
/-! The reset edge (70_reset_and_hazards.md R230): the table of R38, whatever the registers and the request were before. -/

namespace Sys2Proof.Machine

/-- A reset edge as its whole next state: of the state before it only the parameters and what is not SWPD's go on (R230). -/
theorem step_of_reset {s : State} (hrst : s.inputs.rst = true) :
    step s = .next { State.reset with
      digitPos := s.digitAfter, cfg := s.cfg, stim := s.stim.tail, cycle := s.cycle + 1 } :=
  step_reset hrst

/-- Settles O7: the reset is decided before the freeze and the phase, and the twelve registers it leaves are those of
`State.reset`, which `registersAfterReset` reads off. -/
theorem resetEdgeGivesTheResetValues : Obligations.ResetEdgeGivesTheResetValues := by
  intro s hrst
  obtain ⟨hphase, hbitIdx, hframe, hpollCnt, hholdCnt, htStart, hlineOe, hlineOut, hguard, houtcome, hrdHum, hrdTemp⟩ :=
    registersAfterReset
  exact ⟨_, step_of_reset hrst, hphase, hbitIdx, hframe, hpollCnt, hholdCnt, htStart, hlineOe, hlineOut, hguard, houtcome,
    hrdHum, hrdTemp, rfl, rfl, rfl⟩

end Sys2Proof.Machine
end

section
/-! The words of the formats (30_encoding.md): the FRAME word as its five bytes, the codes of the rows, and the two
directions of the round trip. -/

namespace Sys2Proof.Machine

/-! ### The FRAME word -/

/-- Bit `k` of byte `i` stands in the FRAME word at `8 (4 - i) + k` (R86). -/
theorem getLsbD_toWord (f : Frame) {i k : Nat} (hi : i < 5) (hk : k < 8) :
    f.toWord.getLsbD (8 * (4 - i) + k) = (byteOf f i).getLsbD k := by
  change (f.b0 ++ f.b1 ++ f.b2 ++ f.b3 ++ f.b4).getLsbD _ = _
  rw [BitVec.getLsbD_append, BitVec.getLsbD_append, BitVec.getLsbD_append, BitVec.getLsbD_append]
  match i, hi with
  | 0, _ | 1, _ | 2, _ | 3, _ | 4, _ => grind [byteOf]

/-- Settles O4: wire bit `n` is bit `7 - n mod 8` of byte `n div 8`, and that byte's place in the word is `8 (4 - n div 8)`. -/
theorem wireBitIsFrameBit : Obligations.WireBitIsFrameBit := by
  intro f n hn
  have hplace : 39 - n = 8 * (4 - n / 8) + (7 - n % 8) := by omega
  rw [wireBit_eq_getLsbD, hplace, getLsbD_toWord f (by omega) (by omega)]

/-- Byte `i` of a FRAME word is read from the place where `toWord` puts it (R86). -/
theorem byteOf_ofWord (w : BitVec 40) {i : Nat} (hi : i < 5) : byteOf (Frame.ofWord w) i = w.extractLsb' (8 * (4 - i)) 8 :=
  match i, hi with
  | 0, _ | 1, _ | 2, _ | 3, _ | 4, _ => rfl

theorem getLsbD_byteOf_ofWord (w : BitVec 40) {i k : Nat} (hi : i < 5) (hk : k < 8) :
    (byteOf (Frame.ofWord w) i).getLsbD k = w.getLsbD (8 * (4 - i) + k) := by
  rw [byteOf_ofWord w hi, BitVec.getLsbD_extractLsb', decide_eq_true hk, Bool.true_and]

theorem ofWord_toWord (f : Frame) : Frame.ofWord f.toWord = f := by
  refine frame_eq_of_wireBit_eq fun j hj => ?_
  rw [wireBit_eq_getLsbD, wireBit_eq_getLsbD, getLsbD_byteOf_ofWord _ (by omega) (by omega),
    getLsbD_toWord f (by omega) (by omega)]

theorem toWord_ofWord (w : BitVec 40) : (Frame.ofWord w).toWord = w := by
  refine BitVec.eq_of_getLsbD_eq fun j hj => ?_
  rw [show j = 8 * (4 - (4 - j / 8)) + j % 8 by omega, getLsbD_toWord _ (by omega) (by omega),
    getLsbD_byteOf_ofWord w (by omega) (by omega)]

/-! ### The decoder on the words of its format -/

/-- Settles O2: the fixed codes row by row; FRAME is the round trip of its word. -/
theorem decodeOfEncodeIsIdentity : Obligations.DecodeOfEncodeIsIdentity := by
  intro i _
  cases i with
  | frame h f t g c =>
    have hword : decodeFrame (Frame.toWord ⟨h, f, t, g, c⟩) = .frame h f t g c := by rw [decodeFrame, ofWord_toWord]
    have hfits : (Frame.toWord ⟨h, f, t, g, c⟩).toNat < 2 ^ Format.frame.width := BitVec.isLt _
    simp only [encode, decode, if_pos hfits, BitVec.ofNat_toNat, BitVec.setWidth_eq, hword]
  | _ => rfl

/-- The row that a number of a format's width stands for has that number as its word (R97). -/
theorem decode_of_lt (fmt : Format) {w : Nat} (hw : w < 2 ^ fmt.width) : ∃ i, decode fmt w = .ok i ∧ encode i = ⟨fmt, w⟩ := by
  cases fmt with
  | frame =>
    refine ⟨decodeFrame (BitVec.ofNat 40 w), by simp only [decode, if_pos hw], ?_⟩
    have hword : (Frame.ofWord (BitVec.ofNat 40 w)).toWord.toNat = w := by
      rw [toWord_ofWord, BitVec.toNat_ofNat]; exact Nat.mod_eq_of_lt hw
    exact congrArg (FormatWord.mk .frame) hword
  | cmd =>
    change w < 2 at hw
    interval_cases w
    · exact ⟨.nop, rfl, rfl⟩
    · exact ⟨.start, rfl, rfl⟩
  | cell =>
    change w < 2 at hw
    interval_cases w
    · exact ⟨.zero, rfl, rfl⟩
    · exact ⟨.one, rfl, rfl⟩
  | outcome =>
    change w < 4 at hw
    interval_cases w <;> exact ⟨_, rfl, rfl⟩
  | phase =>
    change w < 8 at hw
    interval_cases w <;> exact ⟨_, rfl, rfl⟩

/-- Settles O3: within the width every number is the word of its row; above it the decoder's only rejection answers. -/
theorem everyWordInWidthHasOneMeaning : Obligations.EveryWordInWidthHasOneMeaning :=
  fun fmt _ => ⟨decode_of_lt fmt, fun hw => if_neg hw⟩

/-- Settles O1: each word is decoded by its format's table, and the number 8 has a bit above the three of PHASE. -/
theorem specWordsDecode : Obligations.SpecWordsDecode :=
  ⟨rfl, rfl, rfl, rfl, rfl, rfl, rfl⟩

/-- Settles O25: byte number `n div 8` is then the sixth or a later one, and there is none. -/
theorem noBitIsStoredBeyondTheFrame : Obligations.NoBitIsStoredBeyondTheFrame := by
  intro f n b hn
  obtain ⟨i, hi⟩ : ∃ i, n / 8 = i + 5 := Nat.exists_eq_add_of_le' (by omega)
  rw [storeBit, hi]
  rfl

end Sys2Proof.Machine
end

section
/-! The moves of the engine (41_transaction_control.md R135; 42_bit_capture.md; 43_checksum_result.md): everything the
operation of a phase can do, said once, and what of a state each move keeps. -/

namespace Sys2Proof.Machine

/-! ### The operation of each phase -/

/-- What `exec` answers for the row that is fetched is the operation of the phase. -/
theorem phaseOp_of_exec {s t : State} {i : Instr} (hfetch : s.fetched = i) (hexec : exec i s = .next t) : phaseOp s = t := by
  rw [← hfetch, exec_fetched] at hexec
  exact Host.Outcome.next.inj hexec

section
variable {s : State}

theorem phaseOp_idle_of_start (h : s.phase = .idle) (hstart : s.inputs.start = true) : phaseOp s = beginTransaction s :=
  phaseOp_of_exec (fetched_idle h) (exec_idle_of_start hstart)

theorem phaseOp_idle_of_no_start (h : s.phase = .idle) (hstart : s.inputs.start = false) : phaseOp s = s :=
  phaseOp_of_exec (fetched_idle h) (idleWithoutCommandChangesNothing s hstart)

theorem phaseOp_reqLow_of_last (h : s.phase = .reqLow) (hlast : s.holdCnt + 1 = s.cfg.holdCycles) :
    phaseOp s = releaseLine s :=
  phaseOp_of_exec (fetched_reqLow h) (congrArg Host.Outcome.next (if_pos hlast))

theorem phaseOp_reqLow_of_more (h : s.phase = .reqLow) (hmore : s.holdCnt + 1 ≠ s.cfg.holdCycles) :
    phaseOp s = { s with holdCnt := countUp s.cfg s.holdCnt } :=
  phaseOp_of_exec (fetched_reqLow h) (congrArg Host.Outcome.next (if_neg hmore))

theorem phaseOp_hs1 (h : s.phase = .hs1) : phaseOp s = awaitLeave .high (goto .hs2) s :=
  phaseOp_of_exec (fetched_hs1 h) rfl

theorem phaseOp_hs2 (h : s.phase = .hs2) : phaseOp s = awaitLeave .low (goto .hs3) s :=
  phaseOp_of_exec (fetched_hs2 h) rfl

theorem phaseOp_hs3 (h : s.phase = .hs3) : phaseOp s = awaitLeave .high enterCapture s :=
  phaseOp_of_exec (fetched_hs3 h) rfl

theorem phaseOp_bitLo (h : s.phase = .bitLo) : phaseOp s = awaitLeave .low stampStart s :=
  phaseOp_of_exec (fetched_bitLo h) rfl

theorem phaseOp_bitHi (h : s.phase = .bitHi) : phaseOp s = awaitLeave .high (captureBit s.measuredBit) s :=
  phaseOp_of_exec (fetched_bitHi h) rfl

theorem phaseOp_check (h : s.phase = .check) : phaseOp s = judgeFrame s :=
  phaseOp_of_exec (fetched_check h) rfl

end

/-! ### The moves -/

/-- The five phases that wait for the line to change (R94). -/
def waitPhases : List Phase := [.hs1, .hs2, .hs3, .bitLo, .bitHi]

/-- One enabled edge of the engine: `Move s u` when the operation of the phase of `s` can leave `u`. -/
inductive Move (s : State) : State → Prop
  /-- No command in `IDLE` (R120). -/
  | rests : s.phase = .idle → s.inputs.start = false → Move s s
  /-- START in `IDLE` (R121). -/
  | begins : s.phase = .idle → s.inputs.start = true → Move s (beginTransaction s)
  /-- The hold goes on (R123). -/
  | holds : s.phase = .reqLow → s.holdCnt + 1 ≠ s.cfg.holdCycles → Move s { s with holdCnt := countUp s.cfg s.holdCnt }
  /-- The hold is over (R124). -/
  | releases : s.phase = .reqLow → s.holdCnt + 1 = s.cfg.holdCycles → Move s (releaseLine s)
  /-- A poll that finds no change, with budget left (R113). -/
  | polls : s.phase ∈ waitPhases → s.lineSample = waitLevel s.phase → s.pollCnt + 1 ≠ s.cfg.pollBudget →
      Move s { s with pollCnt := countUp s.cfg s.pollCnt }
  /-- A poll that finds no change and spends the budget (R112, R131). -/
  | timesOut : s.phase ∈ waitPhases → s.lineSample = waitLevel s.phase → s.pollCnt + 1 = s.cfg.pollBudget →
      Move s (raiseTimeout s)
  /-- The sensor pulls the line LOW (R125). -/
  | responds : s.phase = .hs1 → s.lineSample ≠ .high → Move s (goto .hs2 { s with pollCnt := 0 })
  /-- The response's LOW pulse ends (R126). -/
  | answers : s.phase = .hs2 → s.lineSample ≠ .low → Move s (goto .hs3 { s with pollCnt := 0 })
  /-- The response's HIGH pulse ends and the capture loop begins (R127, R170). -/
  | enters : s.phase = .hs3 → s.lineSample ≠ .high → Move s (enterCapture { s with pollCnt := 0 })
  /-- The HIGH pulse of a cell begins (R141). -/
  | rises : s.phase = .bitLo → s.lineSample ≠ .low → Move s (stampStart { s with pollCnt := 0 })
  /-- A cell ends that is not the last (R146, R147). -/
  | captures (b : Bool) : s.phase = .bitHi → s.bitIdx ≠ 39#6 →
      Move s { s with frame := storeBit s.frame s.bitIdx.toNat b, pollCnt := 0, bitIdx := s.bitIdx + 1#6, phase := .bitLo }
  /-- The last cell ends (R146, R147, R171). -/
  | leaves (b : Bool) : s.phase = .bitHi → s.bitIdx = 39#6 →
      Move s { s with frame := storeBit s.frame s.bitIdx.toNat b, pollCnt := 0, guard := false, phase := .check }
  /-- The frame is valid (R162). -/
  | succeeds : s.phase = .check → frameValid s.frame = true → Move s (raiseSuccess s)
  /-- The frame is not valid (R163). -/
  | fails : s.phase = .check → frameValid s.frame = false → Move s (raiseChecksum s)

/-- A wait polls, times out, or does what its own exit does. -/
theorem move_awaitLeave {s : State} {l : Level} {onOk : State → State} (hwait : s.phase ∈ waitPhases)
    (hlevel : waitLevel s.phase = l) (hexit : s.lineSample ≠ l → Move s (onOk { s with pollCnt := 0 })) :
    Move s (awaitLeave l onOk s) := by
  subst hlevel
  obtain ⟨hleft, hnext⟩ | ⟨hstays, hspent, hnext⟩ | ⟨hstays, hbudget, hnext⟩ :=
    awaitLeave_cases (waitLevel s.phase) onOk s
  · rw [hnext]; exact hexit hleft
  · rw [hnext]; exact .timesOut hwait hstays hspent
  · rw [hnext]; exact .polls hwait hstays hbudget

/-- The capture of a bit advances the loop or leaves it. -/
theorem move_captureBit {s : State} (hphase : s.phase = .bitHi) (b : Bool) : Move s (captureBit b { s with pollCnt := 0 }) := by
  obtain ⟨hlast, hcapture⟩ | ⟨hmore, hcapture⟩ := captureBit_cases b { s with pollCnt := 0 }
  · rw [hcapture]; exact .leaves b hphase hlast
  · rw [hcapture]; exact .captures b hphase hmore

/-- The operation of the phase is one of the moves. -/
theorem move_phaseOp (s : State) : Move s (phaseOp s) := by
  cases h : s.phase with
  | idle =>
    cases hstart : s.inputs.start with
    | true => rw [phaseOp_idle_of_start h hstart]; exact .begins h hstart
    | false => rw [phaseOp_idle_of_no_start h hstart]; exact .rests h hstart
  | reqLow =>
    by_cases hlast : s.holdCnt + 1 = s.cfg.holdCycles
    · rw [phaseOp_reqLow_of_last h hlast]; exact .releases h hlast
    · rw [phaseOp_reqLow_of_more h hlast]; exact .holds h hlast
  | hs1 => rw [phaseOp_hs1 h]; exact move_awaitLeave (by simp [h, waitPhases]) (by rw [h]; rfl) (.responds h)
  | hs2 => rw [phaseOp_hs2 h]; exact move_awaitLeave (by simp [h, waitPhases]) (by rw [h]; rfl) (.answers h)
  | hs3 => rw [phaseOp_hs3 h]; exact move_awaitLeave (by simp [h, waitPhases]) (by rw [h]; rfl) (.enters h)
  | bitLo => rw [phaseOp_bitLo h]; exact move_awaitLeave (by simp [h, waitPhases]) (by rw [h]; rfl) (.rises h)
  | bitHi =>
    rw [phaseOp_bitHi h]
    exact move_awaitLeave (by simp [h, waitPhases]) (by rw [h]; rfl) fun _ => move_captureBit h s.measuredBit
  | check =>
    rw [phaseOp_check h]
    obtain ⟨hvalid, hjudge⟩ | ⟨hinvalid, hjudge⟩ := judgeFrame_cases s
    · rw [hjudge]; exact .succeeds h hvalid
    · rw [hjudge]; exact .fails h hinvalid

/-- Everything a step without reset can do: a freeze, or one move of the engine (R180). -/
theorem step_moves {s t : State} (hrst : s.inputs.rst = false) (h : step s = .next t) :
    (s.frozen = true ∧ t = closeEdge s s) ∨ (s.frozen = false ∧ ∃ u, Move s u ∧ t = closeEdge s u) := by
  obtain ⟨hreset, -⟩ | ⟨-, hfrozen, hnext⟩ | ⟨-, henabled, u, hexec, hnext⟩ := step_cases h
  · simp [hrst] at hreset
  · exact .inl ⟨hfrozen, hnext⟩
  · rw [exec_fetched, Host.Outcome.next.injEq] at hexec
    exact .inr ⟨henabled, u, hexec ▸ move_phaseOp s, hnext⟩

end Sys2Proof.Machine
end

section
/-! The invariant of 10_state.md R39 at a move: one lemma for each of its fields, by the moves that touch it. -/

namespace Sys2Proof.Machine

/-- In a state of the invariant `hold_cnt` counts without a wrap (R17). -/
theorem countUp_holdCnt_of_inv {s : State} (h : StateInv s) : countUp s.cfg s.holdCnt = s.holdCnt + 1 :=
  countUp_of_lt h.holdBound (counts_fit_of_legal h.legal).1

/-- Below 39 `bit_idx` counts within its six bits. -/
theorem toNat_bitIdx_succ {n : BitVec 6} (hbound : n.toNat ≤ 39) (hmore : n ≠ 39#6) :
    n.toNat + 1 ≤ 39 ∧ (n + 1#6).toNat = n.toNat + 1 := by
  have hne : n.toNat ≠ 39 := fun h => hmore (BitVec.eq_of_toNat_eq h)
  have hlt : n.toNat + 1 < 2 ^ 6 := by omega
  exact ⟨by omega, by rw [BitVec.toNat_add]; exact Nat.mod_eq_of_lt hlt⟩

/-- Legal budgets are at least 1 (R9). -/
theorem budgets_pos_of_legal {p : Params} (h : p.legal = true) : 0 < p.holdCycles ∧ 0 < p.pollBudget := by
  simp only [Params.legal, Bool.and_eq_true, decide_eq_true_eq] at h
  obtain ⟨⟨⟨-, hhold⟩, hpoll⟩, -⟩ := h
  exact ⟨hhold, hpoll⟩

theorem wireBit_zero (j : Nat) : Frame.zero.wireBit j = false := by
  rw [wireBit_eq_getLsbD, show byteOf Frame.zero (j / 8) = 0#8 by unfold byteOf; split <;> rfl, BitVec.getLsbD_zero]

theorem Move.cfg_eq {s u : State} (m : Move s u) : u.cfg = s.cfg := by cases m <;> rfl

section
variable {s u : State} (h : StateInv s) (m : Move s u)
include h m

theorem Move.guardWindow : u.guard = inCapture u.phase := by
  cases m with
  | rests | holds | polls => exact h.guardWindow
  | timesOut | enters | leaves => rfl
  | begins hp | releases hp | responds hp | answers hp | rises hp | captures _ hp | succeeds hp | fails hp =>
    exact h.guardWindow.trans (by rw [hp]; rfl)

theorem Move.idleLine : u.phase = .idle → u.lineOe = true ∧ u.lineOut = .high := by
  cases m with
  | rests | holds | polls => exact h.idleLine
  | timesOut | succeeds | fails => exact fun _ => ⟨rfl, rfl⟩
  | begins | releases | responds | answers | enters | rises | captures | leaves => exact nofun

theorem Move.reqLowLine : u.phase = .reqLow → u.lineOe = true ∧ u.lineOut = .low := by
  cases m with
  | rests | holds | polls => exact h.reqLowLine
  | begins => exact fun _ => ⟨rfl, rfl⟩
  | releases | responds | answers | enters | rises | captures | leaves | timesOut | succeeds | fails => exact nofun

theorem Move.releasedLine : released u.phase = true → u.lineOe = false := by
  cases m with
  | rests | holds | polls => exact h.releasedLine
  | releases => exact fun _ => rfl
  | responds hp | answers hp | enters hp | rises hp | captures _ hp | leaves _ hp =>
    exact fun _ => h.releasedLine (by rw [hp]; rfl)
  | begins | timesOut | succeeds | fails => exact nofun

theorem Move.busyNone : u.phase ≠ .idle → u.outcome = .none := by
  cases m with
  | rests | holds | polls => exact h.busyNone
  | begins => exact fun _ => rfl
  | releases hp | responds hp | answers hp | enters hp | rises hp | captures _ hp | leaves _ hp =>
    exact fun _ => h.busyNone (by rw [hp]; exact nofun)
  | timesOut | succeeds | fails => exact fun hidle => absurd rfl hidle

theorem Move.pollBound : u.pollCnt < u.cfg.pollBudget := by
  cases m with
  | rests | holds | timesOut | succeeds | fails => exact h.pollBound
  | begins | releases | responds | answers | enters | rises | captures | leaves => exact Nat.zero_lt_of_lt h.pollBound
  | polls _ _ hbudget =>
    show countUp s.cfg s.pollCnt < _
    rw [countUp_pollCnt_of_inv h]
    exact lt_of_le_of_ne h.pollBound hbudget

theorem Move.holdBound : u.holdCnt < u.cfg.holdCycles := by
  cases m with
  | begins => exact Nat.zero_lt_of_lt h.holdBound
  | holds _ hmore =>
    show countUp s.cfg s.holdCnt < _
    rw [countUp_holdCnt_of_inv h]
    exact lt_of_le_of_ne h.holdBound hmore
  | _ => exact h.holdBound

theorem Move.bitBound : u.bitIdx.toNat ≤ 39 := by
  cases m with
  | begins | enters => exact Nat.zero_le 39
  | captures _ _ hmore =>
    obtain ⟨hle, hsucc⟩ := toNat_bitIdx_succ h.bitBound hmore
    exact hsucc ▸ hle
  | _ => exact h.bitBound

theorem Move.uncaptured : inCapture u.phase = true → ∀ j, j < 40 → u.bitIdx.toNat ≤ j → u.frame.wireBit j = false := by
  cases m with
  | rests | holds | polls => exact h.uncaptured
  | enters hp =>
    obtain ⟨hclear, -⟩ := h.clearBefore (by rw [hp]; rfl)
    exact fun _ j _ _ => hclear ▸ wireBit_zero j
  | rises hp => exact fun _ => h.uncaptured (by rw [hp]; rfl)
  | captures b hp hmore =>
    intro _ j hj hle
    obtain ⟨hbound, hsucc⟩ := toNat_bitIdx_succ h.bitBound hmore
    change (s.bitIdx + 1#6).toNat ≤ j at hle
    show (storeBit s.frame s.bitIdx.toNat b).wireBit j = false
    rw [wireBit_storeBit s.frame (by omega) b, if_neg (by omega)]
    exact h.uncaptured (by rw [hp]; rfl) j hj (by omega)
  | begins | releases | responds | answers | leaves | timesOut | succeeds | fails => exact nofun

theorem Move.clearBefore : beforeCapture u.phase = true → u.frame = Frame.zero ∧ u.bitIdx = 0#6 := by
  cases m with
  | rests | holds | polls => exact h.clearBefore
  | begins => exact fun _ => ⟨rfl, rfl⟩
  | releases hp | responds hp | answers hp => exact fun _ => h.clearBefore (by rw [hp]; rfl)
  | enters | rises | captures | leaves | timesOut | succeeds | fails => exact nofun

theorem Move.tickBound : u.tStart < 2 ^ u.cfg.tickW := by
  cases m with
  | rises => exact BitVec.isLt _
  | _ => exact h.tickBound

/-- Every move keeps the invariant. -/
theorem Move.inv : StateInv u where
  legal := m.cfg_eq ▸ h.legal
  guardWindow := m.guardWindow h
  idleLine := m.idleLine h
  reqLowLine := m.reqLowLine h
  releasedLine := m.releasedLine h
  busyNone := m.busyNone h
  pollBound := m.pollBound h
  holdBound := m.holdBound h
  bitBound := m.bitBound h
  uncaptured := m.uncaptured h
  clearBefore := m.clearBefore h
  tickBound := m.tickBound h

end

/-- The end of the edge touches nothing that the invariant speaks of. -/
theorem inv_closeEdge {u : State} (h : StateInv u) (s : State) : StateInv (closeEdge s u) :=
  ⟨h.legal, h.guardWindow, h.idleLine, h.reqLowLine, h.releasedLine, h.busyNone, h.pollBound, h.holdBound, h.bitBound,
    h.uncaptured, h.clearBefore, h.tickBound⟩

/-- The registers after a reset meet the invariant under any legal parameters (R38). -/
theorem inv_resetRegisters {s : State} (h : s.cfg.legal = true) : StateInv (resetRegisters s) where
  legal := h
  guardWindow := rfl
  idleLine := fun _ => ⟨rfl, rfl⟩
  reqLowLine := nofun
  releasedLine := nofun
  busyNone := fun hidle => absurd rfl hidle
  pollBound := (budgets_pos_of_legal h).2
  holdBound := (budgets_pos_of_legal h).1
  bitBound := Nat.zero_le 39
  uncaptured := nofun
  clearBefore := nofun
  tickBound := Nat.two_pow_pos _

/-- Settles O39: a reset establishes the invariant, a freeze touches nothing it speaks of, and every move keeps it. -/
theorem stepKeepsTheInvariant : Obligations.StepKeepsTheInvariant := by
  intro s t h hstep
  cases hrst : s.inputs.rst with
  | true =>
    rw [step_reset hrst, Host.Outcome.next.injEq] at hstep
    exact hstep ▸ inv_closeEdge (inv_resetRegisters h.legal) s
  | false =>
    obtain ⟨-, rfl⟩ | ⟨-, u, m, rfl⟩ := step_moves hrst hstep
    · exact inv_closeEdge h s
    · exact inv_closeEdge (m.inv h) s

/-- Settles O38: the parameters of the reset state are legal, and `State.reset` is its own reset. -/
theorem invariantHoldsAtReset : Obligations.InvariantHoldsAtReset :=
  inv_resetRegisters (s := State.reset) (by decide)

/-- Settles O40: the bounds of the invariant fit the counters' widths. -/
theorem countersDoNotWrap : Obligations.CountersDoNotWrap := fun _ h =>
  ⟨countUp_pollCnt_of_inv h, countUp_holdCnt_of_inv h, fun hmore => (toNat_bitIdx_succ h.bitBound hmore).2⟩

end Sys2Proof.Machine
end

section
/-! What an edge can change (10_state.md sections 4 and 8; 41_transaction_control.md section 4; 44_guard.md), each read off the
moves. -/

namespace Sys2Proof.Machine

/-! ### The edge itself -/

/-- Settles O6: the step is a function, and it answers a next state whatever the state is. -/
theorem stepAnswersOneNextState : Obligations.StepAnswersOneNextState := by
  intro s
  obtain ⟨t, ht⟩ := step_total s
  exact ⟨t, ht, fun t' ht' => Host.Outcome.next.inj (ht'.symm.trans ht)⟩

/-- Settles O5: the code in `phase` decodes to what the edge fetches, and an enabled edge closes on what that answers. -/
theorem stepRunsTheDecodedInstruction : Obligations.StepRunsTheDecodedInstruction := by
  intro s i t hrst henabled hdecode _ hexec
  obtain rfl : s.fetched = i := Except.ok.inj ((decode_phase_code s).symm.trans hdecode)
  rw [step_enabled hrst henabled hexec, closeEdge, digitAfter_enabled hrst henabled]

/-- Every step closes an edge on a state with the same parameters. -/
theorem step_closes {s t : State} (h : step s = .next t) : ∃ u, u.cfg = s.cfg ∧ t = closeEdge s u := by
  obtain ⟨-, hnext⟩ | ⟨-, -, hnext⟩ | ⟨-, -, u, hexec, hnext⟩ := step_cases h
  · exact ⟨resetRegisters s, rfl, hnext⟩
  · exact ⟨s, rfl, hnext⟩
  · rw [exec_fetched, Host.Outcome.next.injEq] at hexec
    exact ⟨u, hexec ▸ (move_phaseOp s).cfg_eq, hnext⟩

theorem digitAfter_of_no_grant {s : State} (h : s.preGnt = false) : s.digitAfter = s.digitPos := by
  simp [State.digitAfter, State.displayFires, h]

/-- Settles O41: no move writes the parameters, and the end of the edge moves the display's bit by a granted firing only. -/
theorem parametersAreFixed : Obligations.ParametersAreFixed := by
  intro s t h
  obtain ⟨u, hcfg, rfl⟩ := step_closes h
  refine ⟨hcfg, rfl, rfl, fun hmoved => ?_⟩
  by_contra hgrant
  exact hmoved (digitAfter_of_no_grant (Bool.eq_false_iff.2 hgrant))

/-! ### The reading store -/

theorem frameValid_iff (f : Frame) : frameValid f = true ↔ dataSum f = f.b4 := decide_eq_true_iff

/-- A move keeps the store, or it is Success (R162). -/
theorem Move.store {s u : State} (m : Move s u) :
    (u.rdHum = s.rdHum ∧ u.rdTemp = s.rdTemp) ∨
    (s.phase = .check ∧ frameValid s.frame = true ∧ u = raiseSuccess s) := by
  cases m with
  | succeeds hp hvalid => exact .inr ⟨hp, hvalid, rfl⟩
  | _ => exact .inl ⟨rfl, rfl⟩

/-- Settles O42: a freeze and every move but Success keep the store. -/
theorem storeChangesOnlyOnSuccess : Obligations.StoreChangesOnlyOnSuccess := by
  intro s t h
  cases hrst : s.inputs.rst with
  | true =>
    rw [step_reset hrst, Host.Outcome.next.injEq] at h
    exact .inr (.inl ⟨rfl, h ▸ ⟨rfl, rfl⟩⟩)
  | false =>
    obtain ⟨-, rfl⟩ | ⟨henabled, u, m, rfl⟩ := step_moves hrst h
    · exact .inl ⟨rfl, rfl⟩
    · obtain hkept | ⟨hp, hvalid, rfl⟩ := m.store
      · exact .inl hkept
      · exact .inr (.inr ⟨rfl, henabled, hp, (frameValid_iff s.frame).1 hvalid, rfl, rfl, rfl⟩)

/-! ### The order of the phases and the outcome -/

theorem self_mem_successors (p : Phase) : p ∈ successors p := by cases p <;> decide

theorem idle_mem_successors_of_wait : ∀ p ∈ waitPhases, Phase.idle ∈ successors p := by decide

theorem Move.phase_mem {s u : State} (m : Move s u) : u.phase ∈ successors s.phase := by
  cases m with
  | rests | holds | polls => exact self_mem_successors s.phase
  | timesOut hwait => exact idle_mem_successors_of_wait s.phase hwait
  | begins hp | releases hp | responds hp | answers hp | enters hp | rises hp | captures _ hp | leaves _ hp | succeeds hp
  | fails hp => simp [hp, successors]

/-- `BIT_HI` goes on to the next bit from any but number 39, and to `CHECK` from number 39 (R147). -/
theorem Move.loop {s u : State} (m : Move s u) (hp : s.phase = .bitHi) :
    (u.phase = .bitLo → s.bitIdx ≠ 39#6 ∧ u.bitIdx = s.bitIdx + 1#6) ∧ (u.phase = .check → s.bitIdx = 39#6) := by
  cases m with
  | polls => exact ⟨fun hlo => (nomatch hp.symm.trans hlo), fun hcheck => (nomatch hp.symm.trans hcheck)⟩
  | timesOut => exact ⟨nofun, nofun⟩
  | captures _ _ hmore => exact ⟨fun _ => ⟨hmore, rfl⟩, nofun⟩
  | leaves _ _ hlast => exact ⟨nofun, fun _ => hlast⟩
  | rests hp' | begins hp' | holds hp' | releases hp' | responds hp' | answers hp' | enters hp' | rises hp' | succeeds hp'
  | fails hp' => exact nomatch hp.symm.trans hp'

/-- Settles O44: a freeze stays, and each move goes to a successor. -/
theorem phasesAreVisitedInOrder : Obligations.PhasesAreVisitedInOrder := by
  intro s t hrst h
  obtain ⟨-, rfl⟩ | ⟨-, u, m, rfl⟩ := step_moves hrst h
  · exact ⟨self_mem_successors s.phase, fun hp hlo => (nomatch hp.symm.trans hlo), fun hp hcheck => (nomatch hp.symm.trans hcheck)⟩
  · exact ⟨m.phase_mem, fun hp => (m.loop hp).1, fun hp => (m.loop hp).2⟩

/-- A move from `IDLE` is no command or START. -/
theorem Move.of_idle {s u : State} (m : Move s u) (hp : s.phase = .idle) : u = s ∨ u = beginTransaction s := by
  cases m with
  | rests => exact .inl rfl
  | begins => exact .inr rfl
  | polls hwait | timesOut hwait => rw [hp] at hwait; exact absurd hwait (by decide)
  | holds hp' | releases hp' | responds hp' | answers hp' | enters hp' | rises hp' | captures _ hp' | leaves _ hp' | succeeds hp'
  | fails hp' => exact nomatch hp.symm.trans hp'

/-- A move that ends a transaction is one of the three endings (R131, R162, R163). -/
theorem Move.of_end {s u : State} (m : Move s u) (hbusy : s.phase ≠ .idle) (hidle : u.phase = .idle) :
    (s.phase ∈ waitPhases ∧ u = raiseTimeout s) ∨ (s.phase = .check ∧ (u = raiseSuccess s ∨ u = raiseChecksum s)) := by
  cases m with
  | rests | holds | polls => exact absurd hidle hbusy
  | timesOut hwait => exact .inl ⟨hwait, rfl⟩
  | succeeds hp => exact .inr ⟨hp, .inl rfl⟩
  | fails hp => exact .inr ⟨hp, .inr rfl⟩
  | begins | releases | responds | answers | enters | rises | captures | leaves => exact nomatch hidle

theorem Move.outcome_of_end {s u : State} (m : Move s u) (hbusy : s.phase ≠ .idle) (hidle : u.phase = .idle) :
    u.outcome = .success ∨ u.outcome = .timeout ∨ u.outcome = .checksum := by
  obtain ⟨-, rfl⟩ | ⟨-, rfl | rfl⟩ := m.of_end hbusy hidle
  · exact .inr (.inl rfl)
  · exact .inl rfl
  · exact .inr (.inr rfl)

/-- Settles O43: a busy state has the outcome NONE by the invariant, the endings set theirs, and in `IDLE` only START writes it. -/
theorem outcomeIsFinalAtTheLastEdge : Obligations.OutcomeIsFinalAtTheLastEdge := by
  intro s t hinv hrst h
  have hnone := (stepKeepsTheInvariant s t hinv h).busyNone
  obtain ⟨-, rfl⟩ | ⟨-, u, m, rfl⟩ := step_moves hrst h
  · exact ⟨fun hbusy hidle => absurd hidle hbusy, fun _ => hnone, fun _ _ => rfl, fun _ => hnone⟩
  · refine ⟨m.outcome_of_end, fun _ => hnone, fun hp hidle => ?_, fun _ => hnone⟩
    obtain rfl | rfl := m.of_idle hp
    · rfl
    · exact nomatch hidle

/-- Settles O47: the edge is a time-out, and before the capture loop the invariant has a clear frame and the guard down. -/
theorem handshakeTimeoutReadsNoBit : Obligations.HandshakeTimeoutReadsNoBit := by
  intro s t hinv hwait hrst h hidle
  have hbusy : s.phase ≠ .idle := fun hp => absurd (hp ▸ hwait) (by decide)
  have hcheck : s.phase ≠ .check := fun hp => absurd (hp ▸ hwait) (by decide)
  have hbefore : beforeCapture s.phase = true ∧ inCapture s.phase = false :=
    (by decide : ∀ p ∈ [Phase.hs1, .hs2, .hs3], beforeCapture p = true ∧ inCapture p = false) s.phase hwait
  obtain ⟨hframe, hbit⟩ := hinv.clearBefore hbefore.1
  obtain ⟨-, rfl⟩ | ⟨-, u, m, rfl⟩ := step_moves hrst h
  · exact absurd hidle hbusy
  · obtain ⟨-, rfl⟩ | ⟨hp, -⟩ := m.of_end hbusy hidle
    · exact ⟨rfl, hbit, hframe, hinv.guardWindow.trans hbefore.2, rfl, rfl, rfl⟩
    · exact absurd hp hcheck

/-! ### The line and the guard -/

/-- Settles O45: of the moves, START finds the line in output mode already, the release turns it to input, and the endings turn
it back. -/
theorem lineTurnsOnlyAtReleaseAndEnd : Obligations.LineTurnsOnlyAtReleaseAndEnd := by
  intro s t hinv hrst h hturn
  obtain ⟨-, rfl⟩ | ⟨-, u, m, rfl⟩ := step_moves hrst h
  · exact absurd rfl hturn
  · cases m with
    | begins hp => exact absurd (hinv.idleLine hp).1.symm hturn
    | releases hp => exact .inl ⟨hp, rfl, rfl⟩
    | timesOut hwait =>
      exact .inr ⟨fun hp => absurd (hp ▸ hwait) (by decide), fun hp => absurd (hp ▸ hwait) (by decide), rfl, rfl, rfl⟩
    | succeeds hp | fails hp => exact .inr ⟨by rw [hp]; exact nofun, by rw [hp]; exact nofun, rfl, rfl, rfl⟩
    | rests | holds | polls | responds | answers | enters | rises | captures | leaves => exact absurd rfl hturn

/-- The guard is acquired at the entry of the capture loop (R170) and released at its end and at a time-out (R171, R172). -/
theorem Move.guard {s u : State} (m : Move s u) :
    u.guard = s.guard ∨ (u.guard = true ∧ s.phase = .hs3 ∧ u.phase = .bitLo) ∨
    (u.guard = false ∧ ((s.phase = .bitHi ∧ s.bitIdx = 39#6 ∧ u.phase = .check) ∨ (u.phase = .idle ∧ u.outcome = .timeout))) := by
  cases m with
  | enters hp => exact .inr (.inl ⟨rfl, hp, rfl⟩)
  | leaves _ hp hlast => exact .inr (.inr ⟨rfl, .inl ⟨hp, hlast, rfl⟩⟩)
  | timesOut => exact .inr (.inr ⟨rfl, .inr ⟨rfl, rfl⟩⟩)
  | _ => exact .inl rfl

/-- With the guard down an enabled edge carries no request (R173). -/
theorem preReq_of_enabled {s : State} (hrst : s.inputs.rst = false) (henabled : s.frozen = false) (hguard : s.guard = false) :
    s.preReq = false := by
  simpa [State.frozen, State.preGnt, hrst, hguard] using henabled

/-- Settles O46: a reset lowers the guard, a freeze keeps it, and the moves that write it are those of R170, R171 and R172. -/
theorem guardChangesOnlyAtItsEdges : Obligations.GuardChangesOnlyAtItsEdges := by
  intro s t h
  cases hrst : s.inputs.rst with
  | true =>
    rw [step_reset hrst, Host.Outcome.next.injEq] at h
    have hcleared : t.guard = false := h ▸ rfl
    exact ⟨fun _ hset => (nomatch hcleared.symm.trans hset), fun _ _ => .inr (.inr rfl)⟩
  | false =>
    obtain ⟨-, rfl⟩ | ⟨henabled, u, m, rfl⟩ := step_moves hrst h
    · exact ⟨fun h0 h1 => (nomatch h0.symm.trans h1), fun h1 h0 => (nomatch h1.symm.trans h0)⟩
    · obtain hkept | ⟨hset, hfrom, hto⟩ | ⟨hcleared, hwhere⟩ := m.guard
      · exact ⟨fun h0 h1 => (nomatch h0.symm.trans (hkept.symm.trans h1)), fun h1 h0 => (nomatch h1.symm.trans (hkept.symm.trans h0))⟩
      · exact ⟨fun h0 _ => ⟨hfrom, hto, rfl, preReq_of_enabled hrst henabled h0⟩, fun _ h0 => (nomatch hset.symm.trans h0)⟩
      · exact ⟨fun _ h1 => (nomatch hcleared.symm.trans h1), fun _ _ => hwhere.imp_right .inl⟩

end Sys2Proof.Machine
end

section
/-! The bound on the edges of a transaction (41_transaction_control.md R134; 70_reset_and_hazards.md R251 (d)). -/

namespace Sys2Proof.Machine

/-- A busy block has an edge left, be it that of `CHECK`. -/
theorem edgesLeft_pos {s : State} (hbusy : s.phase ≠ .idle) : 0 < s.edgesLeft := by
  cases hp : s.phase with
  | idle => exact absurd hp hbusy
  | _ => simp [State.edgesLeft, hp]

/-- In a wait every poll still allowed is one of the edges left. -/
theorem edgesLeft_setPollCnt {s : State} (hwait : s.phase ∈ waitPhases) (n : Nat) :
    ({ s with pollCnt := n } : State).edgesLeft + (s.cfg.pollBudget - s.pollCnt) = s.edgesLeft + (s.cfg.pollBudget - n) := by
  cases hp : s.phase with
  | idle | reqLow | check => rw [hp] at hwait; exact absurd hwait (by decide)
  | hs1 | hs2 | hs3 | bitLo | bitHi => simp only [State.edgesLeft, hp]; omega

/-- A move of a busy block uses up at least one of the edges left. -/
theorem Move.edgesLeft {s u : State} (h : StateInv s) (m : Move s u) (hbusy : s.phase ≠ .idle) : u.edgesLeft + 1 ≤ s.edgesLeft := by
  have hpoll := h.pollBound
  have hhold := h.holdBound
  cases m with
  | rests hp | begins hp => exact absurd hp hbusy
  | polls hwait =>
    have hcount := edgesLeft_setPollCnt hwait (countUp s.cfg s.pollCnt)
    rw [countUp_pollCnt_of_inv h] at hcount ⊢
    omega
  | timesOut | succeeds | fails => exact edgesLeft_pos hbusy
  | holds hp =>
    simp only [State.edgesLeft, hp, countUp_holdCnt_of_inv h]
    omega
  | releases hp | responds hp | answers hp | enters hp | rises hp | leaves _ hp =>
    simp only [State.edgesLeft, hp, releaseLine, goto, enterCapture, acquireGuard, stampStart, BitVec.toNat_ofNat, Nat.zero_mod]
    omega
  | captures b hp hmore =>
    obtain ⟨hbound, hsucc⟩ := toNat_bitIdx_succ h.bitBound hmore
    simp only [State.edgesLeft, hp, hsucc]
    rw [show 39 - s.bitIdx.toNat = 39 - (s.bitIdx.toNat + 1) + 1 by omega, Nat.add_mul]
    omega

/-- Settles O51: a freeze touches nothing the bound counts, a move of a busy block uses some of it up, and START sets it. -/
theorem enabledEdgesUseUpTheBound : Obligations.EnabledEdgesUseUpTheBound := by
  intro s t hinv hrst h
  obtain ⟨hfrozen, rfl⟩ | ⟨henabled, u, m, rfl⟩ := step_moves hrst h
  · exact ⟨fun _ => rfl, fun hf => (nomatch hfrozen.symm.trans hf), fun hidle hlow => (nomatch hidle.symm.trans hlow)⟩
  · have huse (hbusy : s.phase ≠ .idle) : u.edgesLeft + 1 ≤ s.edgesLeft := m.edgesLeft hinv hbusy
    refine ⟨fun hf => (nomatch henabled.symm.trans hf), fun _ => huse, fun hidle hlow => ?_⟩
    obtain rfl | rfl := m.of_idle hidle
    · exact nomatch hidle.symm.trans hlow
    · rfl

/-- One input more: its own request and those of the inputs after it. -/
theorem requests_cons (k : Nat) (x : Inputs) (xs : List Inputs) :
    requests (k + 1) (x :: xs) = (if x.preReq then 1 else 0) + requests k xs := by
  cases hx : x.preReq <;> simp [requests, hx, Nat.add_comm]

/-- A frozen cycle carries a request (R173). -/
theorem preReq_of_frozen {s : State} (h : s.frozen = true) : s.inputs.preReq = true := by
  obtain ⟨hgranted, -⟩ := (frozen_iff_granted s).1 h
  obtain ⟨hreq, -⟩ := (granted_iff s).1 hgranted
  exact (Bool.and_eq_true_iff.1 hreq).2

/-- Settles O52: by induction on the edges still allowed; each is a freeze paid for by its request, or uses up the bound. -/
theorem everyTransactionEnds : Obligations.EveryTransactionEnds := by
  intro s k
  induction k generalizing s with
  | zero =>
    intro _ hbusy _ _ hbound
    exact absurd (edgesLeft_pos hbusy) (by omega)
  | succ k ih =>
    intro hinv hbusy hrst hlen hbound
    cases hs : s.stim with
    | nil => simp [hs] at hlen
    | cons x xs =>
      rw [hs] at hrst hlen hbound
      obtain ⟨hx, hxs⟩ := List.forall_mem_cons.1 hrst
      have hinputs : s.inputs = x := inputs_cons s x xs hs
      have hr : s.inputs.rst = false := by rw [hinputs, hx]
      obtain ⟨t, ht⟩ := step_total s
      obtain ⟨hends, -⟩ := outcomeIsFinalAtTheLastEdge s t hinv hr ht
      obtain ⟨hfreeze, huse, -⟩ := enabledEdgesUseUpTheBound s t hinv hr ht
      obtain ⟨-, hstim, -⟩ := parametersAreFixed s t ht
      rw [hs, List.tail_cons] at hstim
      by_cases hidle : t.phase = .idle
      · refine ⟨1, t, by omega, runEdges_succ ht 0, hidle, ?_⟩
        obtain h | h | h := hends hbusy hidle <;> simp [h]
      · have hpaid : t.edgesLeft + requests k xs ≤ k := by
          rw [requests_cons] at hbound
          cases hf : s.frozen with
          | true =>
            have hreq : x.preReq = true := hinputs ▸ preReq_of_frozen hf
            have hsame := hfreeze hf
            rw [if_pos hreq] at hbound
            omega
          | false =>
            have hless := huse hf hbusy
            omega
        rw [List.length_cons] at hlen
        obtain ⟨j, v, hj, hrun, hv⟩ := ih t (stepKeepsTheInvariant s t hinv ht) hidle (hstim ▸ hxs)
          (by rw [hstim]; omega) (hstim ▸ hpaid)
        exact ⟨j + 1, v, by omega, (runEdges_succ ht j).trans hrun, hv⟩

end Sys2Proof.Machine
end

section
/-! The rows CELL as operations (30_encoding.md R91, R92; log entry 9): a symbol captures its bit, and 40 of them assemble a
frame. -/

namespace Sys2Proof.Machine

theorem exec_cellOf (b : Bool) (s : State) : exec (cellOf b) s = .next (captureBit b s) := by cases b <;> rfl

/-- The symbols of the bits from `bit_idx` up to number 39, one after the other, store these bits and leave the loop. -/
theorem execAll_cells {s : State} {bs : List Bool} (hidx : s.bitIdx.toNat < 40) (hcount : s.bitIdx.toNat + bs.length = 40) :
    execAll (bs.map cellOf) s = .next { s with
      frame := storeBits s.frame s.bitIdx.toNat bs, pollCnt := 0, bitIdx := 39#6, guard := false, phase := .check } := by
  induction bs generalizing s with
  | nil => exact absurd hcount hidx.ne
  | cons b bs ih =>
    rw [List.length_cons] at hcount
    simp only [List.map_cons, execAll, exec_cellOf]
    obtain ⟨hlast, hcapture⟩ | ⟨hmore, hcapture⟩ := captureBit_cases b s
    · have h39 : s.bitIdx.toNat = 39 := by rw [hlast]; rfl
      have hnil : bs = [] := List.eq_nil_of_length_eq_zero (by omega)
      rw [hcapture, hnil, ← hlast]
      rfl
    · obtain ⟨hle, hsucc⟩ := toNat_bitIdx_succ (by omega) hmore
      rw [hcapture, ih (show (s.bitIdx + 1#6).toNat < 40 by omega) (show (s.bitIdx + 1#6).toNat + bs.length = 40 by omega)]
      simp only [hsucc, storeBits]

/-- Settles O55: the frame's symbols are those of its 40 wire bits, and storing these leaves the frame. -/
theorem fortySymbolsAssembleTheFrame : Obligations.FortySymbolsAssembleTheFrame := by
  intro f s hidx
  have hzero : s.bitIdx.toNat = 0 := by rw [hidx]; rfl
  have hcells : f.cells = ((List.range 40).map f.wireBit).map cellOf := by rw [List.map_map]; rfl
  rw [hcells, execAll_cells (by omega) (by simp [hzero]), hzero, storeBits_wireBits]

/-- The capture of a bit by R147's test of `bit_idx`. -/
theorem captureBit_eq_ite (b : Bool) (s : State) : captureBit b s =
    if s.bitIdx = 39#6 then
      { s with frame := storeBit s.frame s.bitIdx.toNat b, pollCnt := 0, guard := false, phase := .check }
    else { s with frame := storeBit s.frame s.bitIdx.toNat b, pollCnt := 0, bitIdx := s.bitIdx + 1#6, phase := .bitLo } := by
  obtain ⟨hlast, hnext⟩ | ⟨hmore, hnext⟩ := captureBit_cases b s
  · rw [hnext, if_pos hlast]
  · rw [hnext, if_neg hmore]

/-- Settles O26: both rows are the capture of their bit. -/
theorem cellSymbolStoresItsBit : Obligations.CellSymbolStoresItsBit := fun s =>
  ⟨congrArg Host.Outcome.next (captureBit_eq_ite false s), congrArg Host.Outcome.next (captureBit_eq_ite true s)⟩

end Sys2Proof.Machine
end

section
/-! Runs with frozen cycles (44_guard.md R173): a stretch of edges in which only the enabled ones move the engine. -/

namespace Sys2Proof.Machine

/-- The registers of `s` at another edge: other inputs to come, another cycle number, another position of the display. -/
def State.later (s : State) (d : DigitPos) (c : Nat) (xs : List Inputs) : State :=
  { s with digitPos := d, cycle := c, stim := xs }

/-- An edge with neither a reset nor a taken cycle runs the operation of the phase, whatever the guard is (R173, R180). -/
theorem step_of_enabledEdge {s : State} {x : Inputs} {xs : List Inputs} (hs : s.stim = x :: xs) (hx : enabledEdge s.cfg x) :
    step s = .next ((phaseOp s).later s.digitPos (s.cycle + 1) xs) := by
  obtain ⟨hrst, hfree⟩ := hx
  have hreset : s.inputs.rst = false := by rw [inputs_cons s x xs hs, hrst]
  have henabled : s.frozen = false := by rw [frozen_eq_taken hs hrst, hfree, Bool.false_and]
  rw [step_of_enabled hreset henabled, hs]
  rfl

/-- `f` lists what the registers are after each number of enabled edges, up to `N` of them, as long as every enabled edge
brings inputs that its turn admits. -/
structure Course (p : Params) (N : Nat) (admits : Nat → Inputs → Prop) (f : Nat → State) : Prop where
  params : ∀ n, n ≤ N → (f n).cfg = p
  op : ∀ n, n < N → ∀ d c x xs, admits n x → phaseOp ((f n).later d c (x :: xs)) = (f (n + 1)).later d c (x :: xs)

/-- One course after another that begins where the first ends. -/
theorem Course.append {p : Params} {N M : Nat} {a b : Nat → Inputs → Prop} {f g : Nat → State} (hf : Course p N a f)
    (hg : Course p M b g) (hjoin : f N = g 0) :
    Course p (N + M) (fun n x => (n < N → a n x) ∧ (N ≤ n → b (n - N) x)) (fun n => if n < N then f n else g (n - N)) where
  params n hn := by
    by_cases h : n < N
    · rw [if_pos h]; exact hf.params n h.le
    · rw [if_neg h]; exact hg.params (n - N) (by omega)
  op n hn d c x xs hx := by
    obtain ⟨hfirst, hthen⟩ := hx
    by_cases h : n < N
    · rw [if_pos h, hf.op n h d c x xs (hfirst h)]
      by_cases hlast : n + 1 < N
      · rw [if_pos hlast]
      · obtain rfl : n + 1 = N := by omega
        rw [if_neg hlast, hjoin, Nat.sub_self]
    · rw [if_neg h, hg.op (n - N) (by omega) d c x xs (hthen (by omega)), if_neg (by omega),
        show n + 1 - N = n - N + 1 by omega]

/-- The edges of a list run along a course: a taken one freezes, which needs the guard down, and any other goes one on. -/
theorem runEdges_course {p : Params} {N n : Nat} {admits : Nat → Inputs → Prop} {f : Nat → State} (h : Course p N admits f)
    {xs : List Inputs} (hrst : ∀ x ∈ xs, x.rst = false)
    (hadmits : ∀ k x, xs[k]? = some x → taken p x = true ∨ admits (n + enabledIn p (xs.take k)) x)
    (hdown : ∀ x ∈ xs, taken p x = true → ∀ m, m ≤ N → (f m).guard = false)
    (hcount : n + enabledIn p xs ≤ N) (d : DigitPos) (c : Nat) (rest : List Inputs) :
    ∃ d' c', runEdges xs.length ((f n).later d c (xs ++ rest)) = .next ((f (n + enabledIn p xs)).later d' c' rest) := by
  induction xs generalizing n d c with
  | nil => exact ⟨d, c, rfl⟩
  | cons x xs ih =>
    obtain ⟨hx, hxs⟩ := List.forall_mem_cons.1 hrst
    obtain ⟨hfreeze, hdown'⟩ := List.forall_mem_cons.1 hdown
    have hparams : ((f n).later d c (x :: (xs ++ rest))).cfg = p := h.params n (by omega)
    have hlater (k : Nat) (y : Inputs) (hy : xs[k]? = some y) := hadmits (k + 1) y (by rw [List.getElem?_cons_succ, hy])
    simp only [List.take_succ_cons, enabledIn_cons] at hlater
    rw [enabledIn_cons] at hcount ⊢
    rw [List.length_cons, List.cons_append]
    cases htaken : taken p x with
    | true =>
      simp only [htaken, if_true, Nat.zero_add] at hlater hcount ⊢
      have hguard : ((f n).later d c (x :: (xs ++ rest))).guard = false := hfreeze htaken n (by omega)
      have hfrozen : ((f n).later d c (x :: (xs ++ rest))).frozen = true := by
        rw [frozen_eq_taken rfl hx, hparams, htaken, hguard]; rfl
      rw [runEdges_succ (step_frozen hfrozen)]
      exact ih hxs hlater hdown' hcount _ _
    | false =>
      simp only [htaken, Bool.false_eq_true, if_false, ← Nat.add_assoc] at hlater hcount ⊢
      have hop := h.op n (by omega) d c x (xs ++ rest) ((hadmits 0 x rfl).resolve_left (by simp [htaken]))
      rw [runEdges_succ (step_of_enabledEdge rfl ⟨hx, hparams.symm ▸ htaken⟩), hop]
      exact ih hxs hlater hdown' hcount _ _

/-- The same for the first `m` inputs to come. -/
theorem runEdges_course_take {p : Params} {N m : Nat} {admits : Nat → Inputs → Prop} {f : Nat → State}
    (h : Course p N admits f) {xs : List Inputs} (hm : m ≤ xs.length) (hrst : ∀ x ∈ xs.take m, x.rst = false)
    (hadmits : ∀ k x, k < m → xs[k]? = some x → taken p x = true ∨ admits (enabledIn p (xs.take k)) x)
    (hdown : ∀ m, m ≤ N → (f m).guard = false) (hcount : enabledIn p (xs.take m) ≤ N) (d : DigitPos) (c : Nat) :
    ∃ d' c', runEdges m ((f 0).later d c xs) = .next ((f (enabledIn p (xs.take m))).later d' c' (xs.drop m)) := by
  have hturn (k : Nat) (x : Inputs) (hx : (xs.take m)[k]? = some x) :
      taken p x = true ∨ admits (0 + enabledIn p ((xs.take m).take k)) x := by
    obtain ⟨hk, -⟩ := List.getElem?_eq_some_iff.1 hx
    have hkm : k < m := lt_of_lt_of_le hk (List.length_take_le m xs)
    rw [List.getElem?_take_of_lt hkm] at hx
    rw [List.take_take, min_eq_left hkm.le, Nat.zero_add]
    exact hadmits k x hkm hx
  have hrun := runEdges_course h hrst hturn (fun _ _ _ => hdown) (by rwa [Nat.zero_add]) d c (xs.drop m)
  rwa [List.take_append_drop, List.length_take_of_le hm, Nat.zero_add] at hrun

/-- The first number of edges with so many enabled ones among them is no more than there are inputs. -/
theorem le_length_of_first {p : Params} {N n : Nat} {xs : List Inputs} (hreach : enabledIn p (xs.take n) = N)
    (hfirst : ∀ k, k < n → enabledIn p (xs.take k) < N) : n ≤ xs.length := by
  by_contra hlong
  have hall := hfirst xs.length (by omega)
  rw [List.take_of_length_le (by omega)] at hreach
  rw [List.take_length, hreach] at hall
  exact lt_irrefl _ hall

/-! ### The hold -/

/-- The registers when the hold of `s` has gone on for `n` enabled edges, and the line is released at its end. -/
def heldFor (s : State) (n : Nat) : State :=
  if n < s.cfg.holdCycles - s.holdCnt then { s with holdCnt := s.holdCnt + n }
  else releaseLine { s with holdCnt := s.cfg.holdCycles - 1 }

theorem heldFor_of_lt {s : State} {n : Nat} (h : n < s.cfg.holdCycles - s.holdCnt) :
    heldFor s n = { s with holdCnt := s.holdCnt + n } := if_pos h

theorem heldFor_end (s : State) :
    heldFor s (s.cfg.holdCycles - s.holdCnt) = releaseLine { s with holdCnt := s.cfg.holdCycles - 1 } :=
  if_neg (lt_irrefl _)

/-- `REQ_LOW` samples nothing and counts to `HOLD_CYCLES` (R123, R124). -/
theorem course_hold {s : State} (hlegal : s.cfg.legal = true) (hp : s.phase = .reqLow) :
    Course s.cfg (s.cfg.holdCycles - s.holdCnt) (fun _ _ => True) (heldFor s) where
  params n _ := by unfold heldFor; split <;> rfl
  op n hn d c x xs _ := by
    rw [heldFor_of_lt hn]
    by_cases hlast : s.holdCnt + n + 1 = s.cfg.holdCycles
    · obtain hend : n + 1 = s.cfg.holdCycles - s.holdCnt := by omega
      rw [hend, heldFor_end, ← hlast, Nat.add_sub_cancel]
      exact phaseOp_reqLow_of_last hp hlast
    · have hcount : countUp s.cfg (s.holdCnt + n) = s.holdCnt + n + 1 :=
        countUp_of_lt (show s.holdCnt + n < s.cfg.holdCycles by omega) (counts_fit_of_legal hlegal).1
      rw [heldFor_of_lt (by omega), ← Nat.add_assoc, ← hcount]
      exact phaseOp_reqLow_of_more hp hlast

theorem heldFor_guard (s : State) (n : Nat) : (heldFor s n).guard = s.guard := by unfold heldFor; split <;> rfl

/-- Settles O50: the hold is a course, at whose end the line is released. -/
theorem holdLastsExactly : Obligations.HoldLastsExactly := by
  intro s n hinv hp hrst hreach hfirst
  obtain ⟨hoe, hout⟩ := hinv.reqLowLine hp
  have hguard : s.guard = false := hinv.guardWindow.trans (by rw [hp]; rfl)
  have hlen := le_length_of_first hreach hfirst
  have hstart : (heldFor s 0).later s.digitPos s.cycle s.stim = s := by
    rw [heldFor_of_lt (Nat.sub_pos_of_lt hinv.holdBound)]; rfl
  have hrun (m : Nat) (hm : m ≤ n) (hle : enabledIn s.cfg (s.stim.take m) ≤ s.cfg.holdCycles - s.holdCnt) :
      ∃ d c, runEdges m s = .next ((heldFor s (enabledIn s.cfg (s.stim.take m))).later d c (s.stim.drop m)) := by
    have := runEdges_course_take (course_hold hinv.legal hp) (hm.trans hlen)
      (fun x hx => hrst x (List.take_subset_take_left _ hm hx)) (fun _ _ _ _ => .inr trivial)
      (fun _ _ => (heldFor_guard s _).trans hguard) hle s.digitPos s.cycle
    rwa [hstart] at this
  refine ⟨fun k hk => ?_, ?_⟩
  · obtain ⟨d, c, hk'⟩ := hrun k hk.le (hfirst k hk).le
    rw [heldFor_of_lt (hfirst k hk)] at hk'
    exact ⟨_, hk', hp, hoe, hout, rfl⟩
  · obtain ⟨d, c, hn⟩ := hrun n le_rfl hreach.le
    rw [hreach, heldFor_end] at hn
    exact ⟨_, hn, rfl, rfl, hout, rfl, rfl⟩

/-! ### A wait that finds no change -/

/-- Every wait phase polls the level it leaves, with an exit of its own (R94, R110). -/
theorem phaseOp_of_wait {s : State} (hwait : s.phase ∈ waitPhases) : ∃ onOk, phaseOp s = awaitLeave (waitLevel s.phase) onOk s := by
  cases hp : s.phase with
  | idle | reqLow | check => rw [hp] at hwait; exact absurd hwait (by decide)
  | hs1 => exact ⟨_, phaseOp_hs1 hp⟩
  | hs2 => exact ⟨_, phaseOp_hs2 hp⟩
  | hs3 => exact ⟨_, phaseOp_hs3 hp⟩
  | bitLo => exact ⟨_, phaseOp_bitLo hp⟩
  | bitHi => exact ⟨_, phaseOp_bitHi hp⟩

/-- The registers when `n` polls of the wait of `s` have found no change, the last that the budget allows being its time-out. -/
def polledFor (s : State) (n : Nat) : State :=
  if n < s.cfg.pollBudget - s.pollCnt then { s with pollCnt := s.pollCnt + n }
  else raiseTimeout { s with pollCnt := s.cfg.pollBudget - 1 }

theorem polledFor_of_lt {s : State} {n : Nat} (h : n < s.cfg.pollBudget - s.pollCnt) :
    polledFor s n = { s with pollCnt := s.pollCnt + n } := if_pos h

theorem polledFor_end (s : State) :
    polledFor s (s.cfg.pollBudget - s.pollCnt) = raiseTimeout { s with pollCnt := s.cfg.pollBudget - 1 } :=
  if_neg (lt_irrefl _)

/-- A wait whose samples all show the level it leaves counts to its budget (R112, R113). -/
theorem course_wait {s : State} (hlegal : s.cfg.legal = true) (hwait : s.phase ∈ waitPhases) :
    Course s.cfg (s.cfg.pollBudget - s.pollCnt) (fun _ x => x.line = waitLevel s.phase) (polledFor s) where
  params n _ := by unfold polledFor; split <;> rfl
  op n hn d c x xs hline := by
    rw [polledFor_of_lt hn]
    obtain ⟨onOk, hop⟩ := phaseOp_of_wait (s := State.later { s with pollCnt := s.pollCnt + n } d c (x :: xs)) hwait
    rw [hop]
    obtain ⟨hleft, -⟩ | ⟨-, hspent, hnext⟩ | ⟨-, hbudget, hnext⟩ :=
      awaitLeave_cases (waitLevel s.phase) onOk (State.later { s with pollCnt := s.pollCnt + n } d c (x :: xs))
    · exact absurd hline hleft
    · change s.pollCnt + n + 1 = s.cfg.pollBudget at hspent
      rw [show n + 1 = s.cfg.pollBudget - s.pollCnt by omega, polledFor_end, ← hspent, Nat.add_sub_cancel]
      exact hnext
    · change s.pollCnt + n + 1 ≠ s.cfg.pollBudget at hbudget
      have hcount : countUp s.cfg (s.pollCnt + n) = s.pollCnt + n + 1 :=
        countUp_of_lt (show s.pollCnt + n < s.cfg.pollBudget by omega) (counts_fit_of_legal hlegal).2
      rw [polledFor_of_lt (by omega), ← Nat.add_assoc, ← hcount]
      exact hnext

theorem polledFor_guard {s : State} (h : s.guard = false) (n : Nat) : (polledFor s n).guard = false := by
  unfold polledFor
  split
  · exact h
  · rfl

/-- A wait from any of its polls through samples that are taken, which needs the guard down, or show the level it leaves. -/
theorem runEdges_polls {s : State} {held rest : List Inputs} (hinv : StateInv s) (hwait : s.phase ∈ waitPhases)
    (hs : s.stim = held ++ rest) (hheld : staysAt s.cfg (waitLevel s.phase) held)
    (hdown : ∀ y ∈ held, taken s.cfg y = true → s.guard = false) (hle : enabledIn s.cfg held ≤ s.cfg.pollBudget - s.pollCnt) :
    ∃ d c, runEdges held.length s = .next ((polledFor s (enabledIn s.cfg held)).later d c rest) := by
  have hrun := runEdges_course (n := 0) (course_wait hinv.legal hwait) (fun y hy => (hheld y hy).1)
    (fun _ y hy => (hheld y (List.mem_of_getElem? hy)).2) (fun y hy htaken n _ => polledFor_guard (hdown y hy htaken) n)
    (by rwa [Nat.zero_add]) s.digitPos s.cycle rest
  have hstart : (polledFor s 0).later s.digitPos s.cycle (held ++ rest) = s := by
    rw [polledFor_of_lt (Nat.sub_pos_of_lt hinv.pollBound), ← hs]; rfl
  rwa [hstart, Nat.zero_add] at hrun

end Sys2Proof.Machine
end

section
/-! Waits from their first poll to their end, with the invariant carried along a run (40_pulse_waiter.md R114; 70_reset_and_hazards.md
R251 (b)). -/

namespace Sys2Proof.Machine

/-- Along a run the invariant is kept and the parameters stay. -/
theorem runEdges_inv {k : Nat} {s t : State} (h : StateInv s) (hrun : runEdges k s = .next t) : StateInv t ∧ t.cfg = s.cfg := by
  induction k generalizing s with
  | zero =>
    obtain rfl : s = t := Host.Outcome.next.inj hrun
    exact ⟨h, rfl⟩
  | succ k ih =>
    obtain ⟨u, hu⟩ := step_total s
    obtain ⟨hcfg, -⟩ := parametersAreFixed s u hu
    obtain ⟨ht, hkept⟩ := ih (stepKeepsTheInvariant s u h hu) ((runEdges_succ hu k).symm.trans hrun)
    exact ⟨ht, hkept.trans hcfg⟩

/-- Settles O54: the state after a cell is what `runEdges_cell` runs to. -/
theorem oneCellIsCaptured : Obligations.OneCellIsCaptured :=
  fun _ _ _ hinv hphase hfresh hclean hs => runEdges_cell (atCell_of_inv hinv hphase hfresh) hclean hs

/-! ### Polls without requests -/

theorem taken_of_quiet {p : Params} {x : Inputs} (h : quiet x) : taken p x = false := by
  simp [taken, h.2]

theorem enabledIn_of_not_taken {p : Params} {xs : List Inputs} (h : ∀ x ∈ xs, taken p x = false) : enabledIn p xs = xs.length := by
  rw [enabledIn, List.filter_eq_self.2 fun x hx => by simp [h x hx]]

/-- A wait that sees the line change goes on to another phase of the transaction, its polls forgotten (R111). -/
theorem Move.of_change {s u : State} (m : Move s u) (hwait : s.phase ∈ waitPhases) (hchange : s.lineSample ≠ waitLevel s.phase) :
    u.phase ≠ s.phase ∧ u.phase ≠ .idle ∧ u.pollCnt = 0 := by
  cases m with
  | polls _ hstays | timesOut _ hstays => exact absurd hstays hchange
  | responds hp | answers hp | enters hp | rises hp | captures _ hp | leaves _ hp => exact ⟨by rw [hp]; exact nofun, nofun, rfl⟩
  | rests hp | begins hp | holds hp | releases hp | succeeds hp | fails hp => rw [hp] at hwait; exact absurd hwait (by decide)

/-- A phase and the level of its wait, as the statements list them (R94). -/
theorem wait_of_mem {p : Phase} {l : Level}
    (h : (p, l) ∈ [(Phase.hs1, Level.high), (.hs2, .low), (.hs3, .high), (.bitLo, .low), (.bitHi, .high)]) :
    p ∈ waitPhases ∧ waitLevel p = l := by
  simp only [List.mem_cons, Prod.mk.injEq, List.not_mem_nil, or_false] at h
  obtain ⟨rfl, rfl⟩ | ⟨rfl, rfl⟩ | ⟨rfl, rfl⟩ | ⟨rfl, rfl⟩ | ⟨rfl, rfl⟩ := h <;> decide

/-- Settles O49: the held samples run along the course of the wait; the next one is its last poll, or it shows the change. -/
theorem waitCountsItsPolls : Obligations.WaitCountsItsPolls := by
  intro s p l held x rest hmem hinv hp hfresh hs hheld hx hbudget
  obtain ⟨hwait, hlevel⟩ := wait_of_mem hmem
  subst hp
  have hleft : s.cfg.pollBudget - s.pollCnt = s.cfg.pollBudget := by rw [hfresh, Nat.sub_zero]
  have hrun (ys zs : List Inputs) (hys : s.stim = ys ++ zs) (hquiet : ∀ y ∈ ys, quiet y ∧ y.line = l)
      (hle : ys.length ≤ s.cfg.pollBudget) :
      ∃ d c, runEdges ys.length s = .next ((polledFor s ys.length).later d c zs) := by
    have hfree (y : Inputs) (hy : y ∈ ys) : taken s.cfg y = false := taken_of_quiet (hquiet y hy).1
    have hstays : staysAt s.cfg (waitLevel s.phase) ys :=
      fun y hy => ⟨(hquiet y hy).1.1, .inr ((hquiet y hy).2.trans hlevel.symm)⟩
    have hpolls := runEdges_polls hinv hwait hys hstays (fun y hy h => (nomatch (hfree y hy).symm.trans h))
      (by rw [enabledIn_of_not_taken hfree, hleft]; exact hle)
    rwa [enabledIn_of_not_taken hfree] at hpolls
  obtain ⟨d, c, hpolls⟩ := hrun held (x :: rest) hs hheld hbudget.le
  rw [polledFor_of_lt (by rw [hleft]; exact hbudget), hfresh, Nat.zero_add] at hpolls
  refine ⟨⟨_, hpolls, rfl, rfl⟩, fun hline => ?_, fun hline hlast => ?_⟩
  · generalize hv : State.later { s with pollCnt := held.length } d c (x :: rest) = v at hpolls
    have hvx : v.inputs = x := hv ▸ rfl
    have hvp : v.phase = s.phase := hv ▸ rfl
    have hstep := step_of_enabledEdge (hv ▸ rfl : v.stim = x :: rest) ⟨hx.1, taken_of_quiet hx⟩
    obtain ⟨hmoved, hbusy, hzero⟩ := (move_phaseOp v).of_change (hvp ▸ hwait)
      (by rw [hvp, hlevel, State.lineSample, hvx]; exact hline)
    exact ⟨_, (runEdges_add hpolls 1).trans (runEdges_succ hstep 0), hvp ▸ hmoved, hbusy, hzero⟩
  · obtain ⟨d', c', hend⟩ := hrun (held ++ [x]) rest (by rw [hs, List.append_assoc]; rfl)
      (List.forall_mem_append.2 ⟨hheld, List.forall_mem_singleton.2 ⟨hx, hline⟩⟩) (by simp [hlast])
    have htime : polledFor s (held ++ [x]).length = raiseTimeout { s with pollCnt := s.cfg.pollBudget - 1 } := by
      rw [List.length_append, List.length_singleton, hlast, ← hleft, polledFor_end, hleft]
    rw [htime, List.length_append, List.length_singleton] at hend
    exact ⟨_, hend, rfl, rfl, rfl, rfl⟩

/-! ### No sensor -/

/-- The registers after START and a whole hold: the line just released. -/
def afterHold (s : State) : State := releaseLine { beginTransaction s with holdCnt := s.cfg.holdCycles - 1 }

/-- The registers after START when no sensor answers: the hold, then the polls of `HS1` up to its time-out. -/
def unanswered (s : State) (n : Nat) : State :=
  if n < s.cfg.holdCycles then heldFor (beginTransaction s) n
  else polledFor (afterHold s) (n - s.cfg.holdCycles)

/-- The hold looks at no sample; `HS1` leaves HIGH. -/
theorem course_unanswered {s : State} (hlegal : s.cfg.legal = true) :
    Course s.cfg (s.cfg.holdCycles + s.cfg.pollBudget)
      (fun n x => (n < s.cfg.holdCycles → True) ∧ (s.cfg.holdCycles ≤ n → x.line = .high)) (unanswered s) :=
  (course_hold (s := beginTransaction s) hlegal rfl).append
    (course_wait (s := afterHold s) hlegal (by simp [afterHold, waitPhases]))
    ((heldFor_end (beginTransaction s)).trans (polledFor_of_lt (s := afterHold s) (budgets_pos_of_legal hlegal).2).symm)

theorem unanswered_busy {s : State} {n : Nat} (h : n < s.cfg.holdCycles + s.cfg.pollBudget) :
    (unanswered s n).phase ≠ .idle ∧ (unanswered s n).outcome = .none := by
  unfold unanswered
  split
  · rw [heldFor_of_lt (by assumption)]
    exact ⟨nofun, rfl⟩
  · rw [polledFor_of_lt (show n - s.cfg.holdCycles < s.cfg.pollBudget - 0 by omega)]
    exact ⟨nofun, rfl⟩

theorem unanswered_end (s : State) : unanswered s (s.cfg.holdCycles + s.cfg.pollBudget) =
    raiseTimeout { afterHold s with pollCnt := s.cfg.pollBudget - 1 } := by
  rw [unanswered, if_neg (by omega), Nat.add_sub_cancel_left]
  exact polledFor_end (afterHold s)

theorem unanswered_zero {s : State} (hlegal : s.cfg.legal = true) : unanswered s 0 = beginTransaction s := by
  obtain ⟨hpos, -⟩ := budgets_pos_of_legal hlegal
  rw [unanswered, if_pos hpos]
  exact heldFor_of_lt hpos

theorem unanswered_guard {s : State} (h : s.guard = false) (n : Nat) : (unanswered s n).guard = false := by
  unfold unanswered
  split
  · exact (heldFor_guard _ n).trans h
  · exact polledFor_guard (s := afterHold s) h _

/-- START taken in `IDLE`, as the edge and its whole next state (R121). -/
theorem step_start {s : State} {x : Inputs} {xs : List Inputs} (hidle : s.phase = .idle) (hs : s.stim = x :: xs)
    (hx : enabledEdge s.cfg x) (hstart : x.start = true) :
    step s = .next ((beginTransaction s).later s.digitPos (s.cycle + 1) xs) := by
  rw [step_of_enabledEdge hs hx, phaseOp_idle_of_start hidle (inputs_cons s x xs hs ▸ hstart)]

/-- From START on, a line that reads HIGH at every poll after the release keeps the run on the course of the unanswered request. -/
theorem runEdges_unanswered {s : State} {x : Inputs} {xs : List Inputs} {m : Nat} (hinv : StateInv s) (hidle : s.phase = .idle)
    (hs : s.stim = x :: xs) (hx : enabledEdge s.cfg x) (hstart : x.start = true) (hm : m ≤ xs.length)
    (hrst : ∀ y ∈ xs.take m, y.rst = false)
    (hhigh : ∀ k y, k < m → xs[k]? = some y → s.cfg.holdCycles ≤ enabledIn s.cfg (xs.take k) →
      taken s.cfg y = true ∨ y.line = .high)
    (hle : enabledIn s.cfg (xs.take m) ≤ s.cfg.holdCycles + s.cfg.pollBudget) :
    ∃ d c, runEdges (m + 1) s = .next ((unanswered s (enabledIn s.cfg (xs.take m))).later d c (xs.drop m)) := by
  have hguard : s.guard = false := hinv.guardWindow.trans (by rw [hidle]; rfl)
  have hadmits (k : Nat) (y : Inputs) (hk : k < m) (hy : xs[k]? = some y) : taken s.cfg y = true ∨
      ((enabledIn s.cfg (xs.take k) < s.cfg.holdCycles → True) ∧
        (s.cfg.holdCycles ≤ enabledIn s.cfg (xs.take k) → y.line = .high)) := by
    by_cases hreleased : s.cfg.holdCycles ≤ enabledIn s.cfg (xs.take k)
    · exact (hhigh k y hk hy hreleased).imp_right fun h => ⟨fun _ => trivial, fun _ => h⟩
    · exact .inr ⟨fun _ => trivial, fun h => absurd h hreleased⟩
  obtain ⟨d, c, hrun⟩ := runEdges_course_take (course_unanswered hinv.legal) hm hrst hadmits
    (fun n _ => unanswered_guard hguard n) hle s.digitPos (s.cycle + 1)
  rw [unanswered_zero hinv.legal] at hrun
  exact ⟨d, c, (runEdges_succ (step_start hidle hs hx hstart) m).trans hrun⟩

/-- Settles O53: the START edge is the first of the enabled ones, and the others run along the course of the unanswered request,
which is busy up to its end. -/
theorem noSensorTimesOutOnTime : Obligations.NoSensorTimesOutOnTime := by
  intro s n hinv hidle henabled hstart hrst hreach hfirst hhigh
  have hlen := le_length_of_first hreach hfirst
  have hpos : n ≠ 0 := by
    rintro rfl
    rw [List.take_zero, enabledIn_nil] at hreach
    omega
  obtain ⟨m, rfl⟩ := Nat.exists_eq_succ_of_ne_zero hpos
  obtain ⟨x, xs, hs⟩ := List.exists_cons_of_length_pos (Nat.zero_lt_of_lt hlen)
  rw [hs, List.length_cons, Nat.succ_le_succ_iff] at hlen
  rw [hs, List.take_succ_cons] at hrst
  rw [inputs_cons s x xs hs] at hstart
  obtain ⟨hx, hxs⟩ := List.forall_mem_cons.1 hrst
  have hguard : s.guard = false := hinv.guardWindow.trans (by rw [hidle]; rfl)
  have hfree : taken s.cfg x = false := by simpa [frozen_eq_taken hs hx, hguard] using henabled
  have hcount (k : Nat) : enabledIn s.cfg (s.stim.take (k + 1)) = 1 + enabledIn s.cfg (xs.take k) := by
    rw [hs, List.take_succ_cons, enabledIn_cons, hfree]; rfl
  have hreach' : enabledIn s.cfg (xs.take m) = s.cfg.holdCycles + s.cfg.pollBudget := by
    rw [hcount] at hreach; omega
  have hfirst' (k : Nat) (hk : k < m) : enabledIn s.cfg (xs.take k) < s.cfg.holdCycles + s.cfg.pollBudget := by
    have := hfirst (k + 1) (by omega)
    rw [hcount] at this; omega
  have hhigh' (k : Nat) (y : Inputs) (hk : k < m) (hy : xs[k]? = some y) (hreleased : s.cfg.holdCycles ≤ enabledIn s.cfg (xs.take k)) :
      taken s.cfg y = true ∨ y.line = .high :=
    hhigh (k + 1) y (by omega) (by rw [hs, List.getElem?_cons_succ, hy]) (by rw [hcount]; omega)
  have hrun (k : Nat) (hk : k ≤ m) := runEdges_unanswered hinv hidle hs ⟨hx, hfree⟩ hstart (hk.trans hlen)
    (fun y hy => hxs y (List.take_subset_take_left _ hk hy)) (fun j y hj => hhigh' j y (by omega))
  refine ⟨fun k hk0 hk => ?_, ?_⟩
  · obtain ⟨k, rfl⟩ := Nat.exists_eq_succ_of_ne_zero hk0.ne'
    have hlt := hfirst' k (by omega)
    obtain ⟨d, c, h⟩ := hrun k (by omega) hlt.le
    exact ⟨_, h, unanswered_busy hlt⟩
  · obtain ⟨d, c, h⟩ := hrun m le_rfl hreach'.le
    rw [hreach', unanswered_end] at h
    exact ⟨_, h, rfl, rfl, rfl, rfl⟩

end Sys2Proof.Machine
end

section
/-! A clean transaction from START to `IDLE` (70_reset_and_hazards.md R251 (a)): the stages of an exchange one after the
other, each from where the last one leaves off. -/

namespace Sys2Proof.Machine

/-- `t` is in the transaction that `s` was idle before, at the first poll of the wait `p`, no bit read yet, with `xs` to come. -/
structure Underway (s : State) (p : Phase) (xs : List Inputs) (t : State) : Prop where
  inv : StateInv t
  phase : t.phase = p
  fresh : t.pollCnt = 0
  first : t.bitIdx = 0#6
  stim : t.stim = xs
  params : t.cfg = s.cfg
  store : t.rdHum = s.rdHum ∧ t.rdTemp = s.rdTemp

/-- START and the hold up to the release edge (R121, R123, R124). -/
theorem runEdges_request {s : State} {command release : Inputs} {hold xs : List Inputs} (hinv : StateInv s) (hidle : s.phase = .idle)
    (hs : s.stim = command :: (hold ++ release :: xs)) (hcommand : enabledEdge s.cfg command ∧ command.start = true)
    (hhold : (∀ x ∈ hold, x.rst = false) ∧ enabledIn s.cfg hold + 1 = s.cfg.holdCycles) (hrelease : enabledEdge s.cfg release) :
    ∃ t, runEdges (1 + (hold.length + 1)) s = .next t ∧ Underway s .hs1 xs t := by
  obtain ⟨hedge, hstart⟩ := hcommand
  obtain ⟨hrst, hcycles⟩ := hhold
  obtain ⟨hreleaseRst, hreleaseFree⟩ := hrelease
  have hguard : s.guard = false := hinv.guardWindow.trans (by rw [hidle]; rfl)
  have hstep : runEdges 1 s = .next ((beginTransaction s).later s.digitPos (s.cycle + 1) (hold ++ release :: xs)) :=
    runEdges_succ (step_start hidle hs hedge hstart) 0
  have hall : enabledIn s.cfg (hold ++ [release]) = s.cfg.holdCycles := by
    rw [enabledIn_append, enabledIn_cons, hreleaseFree]
    exact hcycles
  obtain ⟨d, c, hrun⟩ := runEdges_course (n := 0) (course_hold (s := beginTransaction s) hinv.legal rfl)
    (List.forall_mem_append.2 ⟨hrst, List.forall_mem_singleton.2 hreleaseRst⟩) (fun _ _ _ => .inr trivial)
    (fun _ _ _ n _ => (heldFor_guard _ n).trans hguard) (by rw [Nat.zero_add]; exact hall.le) s.digitPos (s.cycle + 1) xs
  have hbegin : heldFor (beginTransaction s) 0 = beginTransaction s :=
    heldFor_of_lt (s := beginTransaction s) (budgets_pos_of_legal hinv.legal).1
  have hend : heldFor (beginTransaction s) s.cfg.holdCycles = afterHold s := heldFor_end (beginTransaction s)
  change runEdges _ _ = .next (State.later (heldFor _ (0 + enabledIn s.cfg _)) _ _ _) at hrun
  rw [Nat.zero_add, hall, hbegin, hend, List.append_assoc, List.length_append] at hrun
  have htotal := (runEdges_add hstep (hold.length + 1)).trans hrun
  exact ⟨_, htotal, (runEdges_inv hinv htotal).1, rfl, rfl, rfl, rfl, rfl, rfl, rfl⟩

/-! ### The handshake -/

/-- The waits of the handshake: the phase, the level it leaves and the phase that follows (R125 to R127). -/
def handshake : List (Phase × Level × Phase) := [(.hs1, .high, .hs2), (.hs2, .low, .hs3), (.hs3, .high, .bitLo)]

theorem awaitLeave_of_change {l : Level} {onOk : State → State} {s : State} (h : s.lineSample ≠ l) :
    awaitLeave l onOk s = onOk { s with pollCnt := 0 } := by
  simp only [awaitLeave, (poll_ok_iff l s).2 h]

/-- A wait of the handshake that sees the change goes on to the phase that follows, the guard aside with nothing else changed. -/
theorem phaseOp_handshake {p q : Phase} {l : Level} (h : (p, l, q) ∈ handshake) {s : State} (hp : s.phase = p)
    (hfirst : s.bitIdx = 0#6) (hchange : s.lineSample ≠ l) : ∃ g, phaseOp s = { s with phase := q, pollCnt := 0, guard := g } := by
  simp only [handshake, List.mem_cons, Prod.mk.injEq, List.not_mem_nil, or_false] at h
  obtain ⟨rfl, rfl, rfl⟩ | ⟨rfl, rfl, rfl⟩ | ⟨rfl, rfl, rfl⟩ := h
  · exact ⟨_, (phaseOp_hs1 hp).trans (awaitLeave_of_change hchange)⟩
  · exact ⟨_, (phaseOp_hs2 hp).trans (awaitLeave_of_change hchange)⟩
  · refine ⟨true, ((phaseOp_hs3 hp).trans (awaitLeave_of_change hchange)).trans ?_⟩
    simp only [enterCapture, acquireGuard, hfirst]

theorem handshake_waits {p q : Phase} {l : Level} (h : (p, l, q) ∈ handshake) :
    p ∈ waitPhases ∧ waitLevel p = l ∧ inCapture p = false := by
  simp only [handshake, List.mem_cons, Prod.mk.injEq, List.not_mem_nil, or_false] at h
  obtain ⟨rfl, rfl, rfl⟩ | ⟨rfl, rfl, rfl⟩ | ⟨rfl, rfl, rfl⟩ := h <;> decide

/-- One wait of the handshake, frozen cycles among its samples, up to the sample that ends it (R114, R173). -/
theorem Underway.waits {s t : State} {p q : Phase} {l : Level} {held xs : List Inputs} {x : Inputs} (hwait : (p, l, q) ∈ handshake)
    (h : Underway s p (held ++ x :: xs) t) (hheld : staysAt s.cfg l held) (hbudget : enabledIn s.cfg held < s.cfg.pollBudget)
    (hx : enabledEdge s.cfg x) (hchange : x.line ≠ l) : ∃ u, runEdges (held.length + 1) t = .next u ∧ Underway s q xs u := by
  obtain ⟨hinv, hphase, hfresh, hfirst, hstim, hparams, hstore⟩ := h
  obtain ⟨hpoll, hlevel, houtside⟩ := handshake_waits hwait
  rw [← hphase] at hpoll hlevel houtside
  rw [← hparams] at hheld hbudget hx
  have hguard : t.guard = false := hinv.guardWindow.trans houtside
  have hlt : enabledIn t.cfg held < t.cfg.pollBudget - t.pollCnt := by rwa [hfresh]
  obtain ⟨d, c, hrun⟩ := runEdges_polls hinv hpoll hstim (hlevel ▸ hheld) (fun _ _ _ => hguard) hlt.le
  rw [polledFor_of_lt hlt] at hrun
  generalize hv : State.later { t with pollCnt := t.pollCnt + enabledIn t.cfg held } d c (x :: xs) = v at hrun
  have hvx : v.inputs = x := hv ▸ rfl
  have hvs : v.stim = x :: xs := hv ▸ rfl
  have hvc : v.cfg = t.cfg := hv ▸ rfl
  obtain ⟨g, hop⟩ := phaseOp_handshake hwait (s := v) (hv ▸ hphase) (hv ▸ hfirst) (by rw [State.lineSample, hvx]; exact hchange)
  have hstep := step_of_enabledEdge hvs (hvc.symm ▸ hx)
  rw [hop] at hstep
  have hall := (runEdges_add hrun 1).trans (runEdges_succ hstep 0)
  exact ⟨_, hall, (runEdges_inv hinv hall).1, rfl, rfl, hv ▸ hfirst, rfl, hvc.trans hparams, hv ▸ hstore⟩

/-! ### The result -/

theorem judgeFrame_later (s : State) (d : DigitPos) (c : Nat) (xs : List Inputs) :
    judgeFrame (s.later d c xs) = (judgeFrame s).later d c xs := by
  unfold judgeFrame
  rw [apply_ite (State.later · d c xs)]
  rfl

/-- `CHECK` put off by frozen cycles, and then its judgement (R160 to R163, R173). -/
theorem runEdges_judge {t : State} {putOff rest : List Inputs} {judge : Inputs} (hphase : t.phase = .check) (hguard : t.guard = false)
    (hs : t.stim = putOff ++ judge :: rest) (hdelayed : ∀ x ∈ putOff, x.rst = false ∧ taken t.cfg x = true)
    (hjudge : enabledEdge t.cfg judge) :
    ∃ d c, runEdges (putOff.length + 1) t = .next ((judgeFrame t).later d c rest) := by
  have hnone : enabledIn t.cfg putOff = 0 := by
    rw [enabledIn, List.filter_eq_nil_iff.2 fun x hx => by simp [(hdelayed x hx).2], List.length_nil]
  obtain ⟨d, c, hrun⟩ := runEdges_course (p := t.cfg) (n := 0) (N := 0) (admits := fun _ _ => False) (f := fun _ => t)
    ⟨fun _ _ => rfl, nofun⟩ (fun x hx => (hdelayed x hx).1) (fun _ x hx => .inl (hdelayed x (List.mem_of_getElem? hx)).2)
    (fun _ _ _ _ _ => hguard) (by rw [hnone]) t.digitPos t.cycle (judge :: rest)
  have hstart : t.later t.digitPos t.cycle (putOff ++ judge :: rest) = t := by rw [← hs]; rfl
  rw [hstart] at hrun
  have hstep := step_of_enabledEdge (s := t.later d c (judge :: rest)) rfl hjudge
  rw [phaseOp_check (s := t.later d c (judge :: rest)) hphase, judgeFrame_later] at hstep
  exact ⟨d, c + 1, (runEdges_add hrun 1).trans (runEdges_succ hstep 0)⟩

theorem Exchange.length_inputs (e : Exchange) : e.inputs.length =
    1 + (e.hold.length + 1) + ((e.pause.length + 1) + ((e.respLow.length + 1) + ((e.respHigh.length + 1) +
      ((e.cells.flatMap CellSamples.inputs).length + (e.putOff.length + 1))))) := by
  simp only [Exchange.inputs, List.length_append, List.length_cons, List.length_nil]
  omega

/-- Settles O57: request, handshake, capture loop and judgement, each stage beginning where the last one ended. -/
theorem cleanTransactionDeliversTheReading : Obligations.CleanTransactionDeliversTheReading := by
  intro s f e rest hinv hidle hclean hbits hs
  have hs' : s.stim = e.command :: (e.hold ++ e.release :: (e.pause ++ e.respFall :: (e.respLow ++ e.respRise :: (e.respHigh ++
      e.cellFall :: (e.cells.flatMap CellSamples.inputs ++ (e.putOff ++ e.judge :: rest)))))) := by
    rw [hs]; simp only [Exchange.inputs, List.append_assoc, List.cons_append, List.nil_append]
  obtain ⟨hbudget1, hbudget2, hbudget3⟩ := hclean.budgets
  obtain ⟨hfall, hfallLow⟩ := hclean.falls
  obtain ⟨hrise, hriseHigh⟩ := hclean.rises
  obtain ⟨hcell, hcellLow⟩ := hclean.cellFalls
  obtain ⟨t1, hrun1, h1⟩ := runEdges_request hinv hidle hs' hclean.start hclean.held hclean.releases
  obtain ⟨t2, hrun2, h2⟩ := h1.waits (l := .high) (q := .hs2) (by decide) hclean.pauseHigh hbudget1 hfall (by simp [hfallLow])
  obtain ⟨t3, hrun3, h3⟩ := h2.waits (l := .low) (q := .hs3) (by decide) hclean.respLow hbudget2 hrise (by simp [hriseHigh])
  obtain ⟨t4, hrun4, h4⟩ := h3.waits (l := .high) (q := .bitLo) (by decide) hclean.respHigh hbudget3 hcell (by simp [hcellLow])
  obtain ⟨t5, hrun5, hphase, hframe, hguard, -, -, hhum, htemp, hstim⟩ := captureLoopRecoversTheFrame t4 f e.cells _ h4.inv h4.phase
    h4.first h4.fresh hclean.forty (h4.params ▸ hclean.cellsClean) (h4.params ▸ hbits) h4.stim
  have hparams : t5.cfg = s.cfg := (runEdges_inv h4.inv hrun5).2.trans h4.params
  obtain ⟨d, c, hrun6⟩ := runEdges_judge hphase hguard hstim (hparams ▸ hclean.delayed) (hparams ▸ hclean.judged)
  have hrun : runEdges e.inputs.length s = .next ((judgeFrame t5).later d c rest) := by
    rw [Exchange.length_inputs, runEdges_add hrun1, runEdges_add hrun2, runEdges_add hrun3, runEdges_add hrun4, runEdges_add hrun5,
      hrun6]
  refine ⟨_, hrun, ?_⟩
  obtain ⟨hvalid, hjudged⟩ | ⟨hinvalid, hjudged⟩ := judgeFrame_cases t5
  · rw [hjudged]
    have hsum : dataSum f = f.b4 := hframe ▸ (frameValid_iff t5.frame).1 hvalid
    exact ⟨rfl, rfl, rfl, hguard, hframe, rfl, fun _ => ⟨rfl, congrArg Frame.b0 hframe, congrArg Frame.b2 hframe⟩,
      fun h => absurd hsum h⟩
  · rw [hjudged]
    have hsum : dataSum f ≠ f.b4 := fun h => Bool.eq_false_iff.1 hinvalid ((frameValid_iff t5.frame).2 (hframe ▸ h))
    obtain ⟨hhum4, htemp4⟩ := h4.store
    exact ⟨rfl, rfl, rfl, hguard, hframe, rfl, fun h => absurd h hsum, fun _ => ⟨rfl, hhum.trans hhum4, htemp.trans htemp4⟩⟩

end Sys2Proof.Machine
end

section
/-! The rows as operations against the phases that run them (30_encoding.md R82, R86, R91, R104; log entries 7 to 10). -/

namespace Sys2Proof.Machine

/-- Settles O14: `execNop` answers its argument. -/
theorem nopChangesNothing : Obligations.NopChangesNothing := fun _ => rfl

/-- Settles O16: the row looks at the phase and begins nothing outside `IDLE`. -/
theorem startOutsideIdleHasNoEffect : Obligations.StartOutsideIdleHasNoEffect :=
  fun _ hbusy => congrArg Host.Outcome.next (if_neg hbusy)

/-- Settles O30: `setOutcome`, `raiseSuccess` and `raiseChecksum`, field by field. -/
theorem noneSuccessAndChecksumSetTheirTag : Obligations.NoneSuccessAndChecksumSetTheirTag := fun _ => ⟨rfl, rfl, rfl⟩

/-- Settles O31: `raiseTimeout`, field by field. -/
theorem timeoutKeepsTheStore : Obligations.TimeoutKeepsTheStore := fun _ => rfl

/-- Settles O32: FRAME is `CHECK` on the state in which its fields stand. -/
theorem frameStandsAndIsJudged : Obligations.FrameStandsAndIsJudged :=
  fun s h f t g c => checkJudgesTheFrame { s with frame := ⟨h, f, t, g, c⟩ }

/-- Settles O34: the CMD word is START exactly when `start` is 1, and NOP otherwise. -/
theorem idleRunsTheCommandWord : Obligations.IdleRunsTheCommandWord := by
  intro s hidle
  cases hstart : s.inputs.start with
  | true =>
    have hword : decodeCmd s.cmdCode = .start := by rw [(cmdCode_eq_start_iff s).2 hstart]; rfl
    rw [hword, exec_idle_of_start hstart, exec_start_of_idle hidle]
  | false =>
    have hword : decodeCmd s.cmdCode = .nop := by simp [State.cmdCode, hstart, decodeCmd]
    rw [hword, idleWithoutCommandChangesNothing s hstart, nopChangesNothing s]

/-- Settles O35: the FRAME word of the frame registers gives these bytes back, and the judgement is Success or Checksum. -/
theorem checkRunsTheFrameWord : Obligations.CheckRunsTheFrameWord := by
  intro s
  have hword : decodeFrame s.frame.toWord = .frame s.frame.b0 s.frame.b1 s.frame.b2 s.frame.b3 s.frame.b4 := by
    rw [decodeFrame, ofWord_toWord]
  refine ⟨by rw [hword]; rfl, fun hsum => ?_, fun hsum => ?_⟩
  · exact congrArg Host.Outcome.next (if_pos ((frameValid_iff s.frame).2 hsum))
  · exact congrArg Host.Outcome.next (if_neg (mt (frameValid_iff s.frame).1 hsum))

/-- The CELL row of the measured width is the capture of the measured bit (R91, R145). -/
theorem exec_decodeCell_cellCode (s : State) : exec (decodeCell s.cellCode) s = .next (captureBit s.measuredBit s) := by
  cases h : s.measuredBit with
  | true => simp [State.cellCode, h, decodeCell, exec, execOne]
  | false => simp [State.cellCode, h, decodeCell, exec, execZero]

/-- A poll that spends the budget on the level being left is `raise Timeout()`, whatever the exit of the wait is (R112). -/
theorem awaitLeave_of_spent {l : Level} {onOk : State → State} {s : State} (hline : s.inputs.line = l)
    (hspent : s.pollCnt + 1 = s.cfg.pollBudget) : awaitLeave l onOk s = raiseTimeout s := by
  simp only [awaitLeave, (poll_timeout_iff l s).2 ⟨hline, hspent⟩]

/-- Settles O36: the exit of `BIT_HI` captures the measured bit, and the last poll of every wait raises Timeout. -/
theorem waitsRunTheRowTheyFind : Obligations.WaitsRunTheRowTheyFind := by
  intro s
  refine ⟨fun hlow => ?_, fun hspent => ⟨fun hhigh => ?_, fun hlow => ?_⟩⟩
  · rw [exec_bitHi_of_low hlow, exec_decodeCell_cellCode]
  · have htime (onOk : State → State) : Host.Outcome.next (awaitLeave .high onOk s) = exec .timeout s :=
      congrArg Host.Outcome.next (awaitLeave_of_spent hhigh hspent)
    exact ⟨htime (goto .hs2), htime enterCapture, htime (captureBit s.measuredBit)⟩
  · have htime (onOk : State → State) : Host.Outcome.next (awaitLeave .low onOk s) = exec .timeout s :=
      congrArg Host.Outcome.next (awaitLeave_of_spent hlow hspent)
    exact ⟨htime (goto .hs3), htime stampStart⟩

/-- Settles O33: in a sum modulo 256 one byte is determined by the others, so with just one of them changed the frame does not
match. -/
theorem oneCorruptByteIsCaught : Obligations.OneCorruptByteIsCaught := by
  intro s f x hf hchange
  have hvalid : dataSum f = f.b4 := (frameValid_iff f).1 ((frameValid_iff_sum f).2 hf)
  have hinvalid : dataSum s.frame ≠ s.frame.b4 := by
    intro hsum
    obtain ⟨hframe, hne⟩ | ⟨hframe, hne⟩ | ⟨hframe, hne⟩ | ⟨hframe, hne⟩ | ⟨hframe, hne⟩ := hchange <;> rw [hframe] at hsum
    case inr.inr.inr.inr => exact hne (hsum.symm.trans hvalid)
    all_goals exact hne (by simpa [dataSum] using hsum.trans hvalid.symm)
  obtain ⟨-, -, hchecksum⟩ := checkRunsTheFrameWord s
  exact hchecksum hinvalid

end Sys2Proof.Machine
end

section
/-! What each phase looks at (46_cycle_step.md R180), beside `start`, which `startIsIgnoredWhenBusyOrFrozen` has settled. -/

namespace Sys2Proof.Machine

/-- A wait looks at its exit only when it takes it. -/
theorem awaitLeave_congr {l : Level} {f g : State → State} {s : State}
    (h : s.lineSample ≠ l → f { s with pollCnt := 0 } = g { s with pollCnt := 0 }) : awaitLeave l f s = awaitLeave l g s := by
  unfold awaitLeave
  cases hp : poll l s with
  | ok => exact h ((poll_ok_iff l s).1 hp)
  | timeout | again => rfl

theorem cmdCode_withStim {s : State} {xs : List Inputs} (hstart : (s.withStim xs).inputs.start = s.inputs.start) :
    (s.withStim xs).cmdCode = s.cmdCode := by
  rw [State.cmdCode, State.cmdCode, hstart]

theorem beginTransaction_withStim (s : State) (xs : List Inputs) :
    beginTransaction (s.withStim xs) = (beginTransaction s).withStim xs := rfl

/-- The operation of a phase does not tell apart inputs that agree on what it looks at: `start` in `IDLE`, `line_in` in the waits,
`tick` at the exits of the capture loop. -/
theorem phaseOp_withStim_of_looks {s : State} {xs : List Inputs}
    (hstart : s.phase = .idle → (s.withStim xs).inputs.start = s.inputs.start)
    (hline : s.phase ∈ waitPhases → (s.withStim xs).inputs.line = s.inputs.line)
    (hrise : s.phase = .bitLo → s.inputs.line = .high → (s.withStim xs).inputs.tick = s.inputs.tick)
    (hfall : s.phase = .bitHi → s.inputs.line = .low → (s.withStim xs).inputs.tick = s.inputs.tick) :
    phaseOp (s.withStim xs) = (phaseOp s).withStim xs := by
  cases hp : s.phase with
  | idle =>
    have hsame := hstart hp
    cases hs : s.inputs.start with
    | true =>
      rw [phaseOp_idle_of_start hp hs, phaseOp_idle_of_start (s := s.withStim xs) hp (hsame.trans hs)]
      rfl
    | false => rw [phaseOp_idle_of_no_start hp hs, phaseOp_idle_of_no_start (s := s.withStim xs) hp (hsame.trans hs)]
  | reqLow =>
    by_cases hlast : s.holdCnt + 1 = s.cfg.holdCycles
    · rw [phaseOp_reqLow_of_last hp hlast, phaseOp_reqLow_of_last (s := s.withStim xs) hp hlast]
      rfl
    · rw [phaseOp_reqLow_of_more hp hlast, phaseOp_reqLow_of_more (s := s.withStim xs) hp hlast]
      rfl
  | hs1 =>
    rw [phaseOp_hs1 hp, phaseOp_hs1 (s := s.withStim xs) hp]
    exact awaitLeave_withStim (hline (by simp [hp, waitPhases])) fun _ => rfl
  | hs2 =>
    rw [phaseOp_hs2 hp, phaseOp_hs2 (s := s.withStim xs) hp]
    exact awaitLeave_withStim (hline (by simp [hp, waitPhases])) fun _ => rfl
  | hs3 =>
    rw [phaseOp_hs3 hp, phaseOp_hs3 (s := s.withStim xs) hp]
    exact awaitLeave_withStim (hline (by simp [hp, waitPhases])) fun _ => rfl
  | bitLo =>
    rw [phaseOp_bitLo hp, phaseOp_bitLo (s := s.withStim xs) hp]
    exact awaitLeave_withStim (hline (by simp [hp, waitPhases])) fun hchange =>
      stampStart_withStim (hrise hp ((line_eq_high_iff s).2 hchange))
  | bitHi =>
    have hsame : (s.withStim xs).lineSample = s.lineSample := hline (by simp [hp, waitPhases])
    rw [phaseOp_bitHi hp, phaseOp_bitHi (s := s.withStim xs) hp,
      awaitLeave_congr (g := captureBit s.measuredBit) fun hchange => by
        rw [measuredBit_withStim (hfall hp ((line_eq_low_iff s).2 (hsame ▸ hchange)))]]
    exact awaitLeave_withStim hsame fun _ => captureBit_withStim _ _ _
  | check =>
    rw [phaseOp_check hp, phaseOp_check (s := s.withStim xs) hp]
    exact judgeFrame_withStim s xs

/-- Settles O37: the reset, the request and the display choice are the same, and in an enabled cycle the operation looks at no
more than the statement names. -/
theorem eachCycleLooksOnlyAtItsInputs : Obligations.EachCycleLooksOnlyAtItsInputs := by
  intro s x y rest hs hrst hpre hfire hlooks
  have hx : s.inputs = x := inputs_cons s x rest hs
  refine step_withStim hs hrst.symm hpre.symm hfire.symm fun hr hf => ?_
  obtain ⟨hstart, hline, hrise, hfall⟩ := hlooks (hx ▸ hr) hf
  exact phaseOp_withStim_of_looks (fun hp => (hx ▸ hstart hp).symm) (fun hp => (hx ▸ hline hp).symm)
    (fun hp h => (hx ▸ hrise hp (hx ▸ h)).symm) (fun hp h => (hx ▸ hfall hp (hx ▸ h)).symm)

end Sys2Proof.Machine
end

section
/-! The companion agents: the display's firings and the host's loop (47_companion_agents.md R185 to R195; 44_guard.md R179). -/

namespace Sys2Proof.Machine

/-- Settles O12: the request is tied to 0, so nothing is granted, and what is not granted is not frozen. -/
theorem withoutPreemptorNothingIsFrozen : Obligations.WithoutPreemptorNothingIsFrozen := by
  intro s hnone
  have hgnt : s.preGnt = false := by rw [State.preGnt, State.preReq, hnone, Bool.false_and, Bool.false_and]
  exact ⟨hgnt, by rw [State.frozen, hgnt, Bool.and_false]⟩

/-! ### The display -/

theorem toggleDigit_ne (p : DigitPos) : toggleDigit p ≠ p := by cases p <;> decide

theorem activeDigit_eq_ite (p : DigitPos) (v : Nat) : activeDigit p v = if p = .tens then v / 10 else v % 10 := by
  cases p <;> rfl

/-- Settles O58: the bit after the edge is `digitAfter`, and the firing is at the toggled position. -/
theorem firingTogglesAndShowsTheDigit : Obligations.FiringTogglesAndShowsTheDigit := by
  intro s t h
  obtain ⟨u, -, rfl⟩ := step_closes h
  rw [closeEdge_digitPos]
  refine ⟨fun hfires => ?_, fun hrests => ?_, fun hreading => ?_, fun hcounter => ?_⟩
  · have hafter : s.digitAfter = toggleDigit s.digitPos := if_pos hfires
    rw [hafter]
    exact ⟨toggleDigit_ne _, _, if_pos hfires, rfl, activeDigit_eq_ite _ _, rfl, rfl, fun hdigit => if_pos hdigit⟩
  · exact ⟨if_neg (Bool.eq_false_iff.1 hrests), if_neg (Bool.eq_false_iff.1 hrests)⟩
  · rw [State.displayedValue, hreading]
  · rw [State.displayedValue, hcounter]

/-! ### The host -/

/-- Settles O59: the host moves in no granted cycle, raises `start` where it may and lowers it where it sees `busy`; while the block
is not busy `sinceEnd` counts on by one. -/
theorem hostKeepsItsHandshake : Obligations.HostKeepsItsHandshake := by
  intro y z hstep
  obtain ⟨-, hagents, hsince, -, hheld | ⟨hgnt, hhost, -⟩⟩ := System.step_cases hstep
  · obtain ⟨-, hhost, hreports⟩ := hheld
    rw [hhost]
    exact ⟨fun _ => ⟨rfl, hreports⟩, fun h0 h1 => (nomatch h0.symm.trans h1), fun h1 h0 => (nomatch h1.symm.trans h0)⟩
  · rw [hhost]
    refine ⟨fun h => (nomatch hgnt.symm.trans h), fun h0 h1 => ?_, fun h1 h0 => ?_⟩
    · obtain ⟨hfree, hinterval⟩ := (mayRaise_eq_true_iff _ _ _).1 (HostPos.next_raises h0 h1)
      refine ⟨by simpa [presented_busy] using hfree, fun n hn => ?_⟩
      have hcounts : z.sinceEnd = y.sinceEnd.map (· + 1) := by
        have hidle : y.core.busy = false := hfree
        rw [hsince, System.sinceEndAfter, hidle]
        rfl
      obtain ⟨m, hm, rfl⟩ := Option.map_eq_some_iff.1 (hcounts.symm.trans hn)
      exact hagents ▸ hinterval m hm
    · simpa [presented_busy] using HostPos.next_lowers h1 h0

/-- Asleep, the host counts its cycles down, whatever it sees. -/
theorem foldl_next_sleep (p : AgentParams) (cycles : List (Option Nat × Outputs)) (left : Nat) :
    cycles.foldl (fun h c => h.next p c.1 c.2) (.sleep (cycles.length + (left + 1))) = HostPos.sleep (left + 1) := by
  induction cycles with
  | nil => rw [List.length_nil, Nat.zero_add]; rfl
  | cons c cycles ih =>
    have hnext : (HostPos.sleep ((c :: cycles).length + (left + 1))).next p c.1 c.2 = .sleep (cycles.length + (left + 1)) := by
      rw [List.length_cons, show cycles.length + 1 + (left + 1) = cycles.length + left + 2 by omega]
      rfl
    rw [List.foldl_cons, hnext, ih]

theorem next_await_of_free {p : AgentParams} {since : Option Nat} {o : Outputs} (h : o.busy = false) :
    HostPos.await.next p since o = .sleep p.samplePeriod := by
  simp [HostPos.next, h]

theorem start_next_of_last (p : AgentParams) (since : Option Nat) (o : Outputs) :
    ((HostPos.sleep 1).next p since o).start = mayRaise p since o := by
  cases h : mayRaise p since o <;> simp [HostPos.next, h, HostPos.start]

/-- Settles O60: the sleep begins with the whole period, counts down with `start` at 0, and its last cycle raises `start` if it
may. -/
theorem hostWaitsTheSamplePeriod : Obligations.HostWaitsTheSamplePeriod := by
  intro p since o cycles last hfree
  rw [next_await_of_free hfree]
  refine ⟨fun hlt => ?_, fun hlast => ?_⟩
  · obtain ⟨left, hleft⟩ := Nat.exists_eq_add_of_lt hlt
    rw [hleft, Nat.add_assoc, foldl_next_sleep]
    rfl
  · rw [← hlast, ← Nat.zero_add 1, foldl_next_sleep]
    exact start_next_of_last p last.1 last.2

end Sys2Proof.Machine
end
